-- ==== Sys2Proof/Word.lean ====
section
/-!
DEFINITION. The words of the block's interface: bit vectors with bit 0 least significant
(spec/00_scope.md section 5.1; spec/20_memory.md R21).
-/

namespace Sys2Proof

/-- A binary16 pattern (R30). -/
abbrev Half := BitVec 16

/-- A binary32 pattern (R31). -/
abbrev Single := BitVec 32

/-- A request word: bit 32 `op`, bits 31:0 `data` (R38). -/
abbrev RequestWord := BitVec 33

/-- A response word (R40). -/
abbrev ResponseWord := BitVec 32

end Sys2Proof
end

