-- ==== Sys2Proof/Machine/ProgramText.lean ====
section
/-!
DEFINITION. Lines and programs of the host, as data (spec/30_encoding.md R42, R43). A name is a label on a wire of the
host, not storage in the block, and the block executes no program (spec/10_state.md R10, R11).
-/

namespace Sys2Proof.Machine

/-- A line's name, as its characters (R42). -/
abbrev Name := List Char

/-- An operand of width `w`: a literal, or the name of an earlier response (R42). -/
inductive Source (w : Nat) where
  | literal (v : BitVec w)
  | name (n : Name)
  deriving DecidableEq, Repr

/-- The request of a line (R42): WIDEN takes a 16-bit operand, NARROW a 32-bit one. -/
inductive LineOp where
  | widen (x : Source 16)
  | narrow (x : Source 32)
  deriving DecidableEq, Repr

/-- A line: an optional name for its response, and its request (R42). -/
structure Line where
  name : Option Name
  op : LineOp
  deriving DecidableEq, Repr

/-- A program is a finite list of lines (R43). -/
abbrev Program := List Line

/-- Which of the two operations a named line performed: a WIDEN operand may name a NARROW line only, and a NARROW
operand a WIDEN line only (R42). -/
inductive OpKind where
  | widen
  | narrow
  deriving DecidableEq, Repr

/-- The operation of a line. -/
def lineKind : LineOp → OpKind
  | .widen _ => .widen
  | .narrow _ => .narrow

/-- The name a line's operand refers to, if any. -/
def lineOperandName : LineOp → Option Name
  | .widen (.name n) => some n
  | .narrow (.name n) => some n
  | .widen (.literal _) => none
  | .narrow (.literal _) => none

end Sys2Proof.Machine
end

