-- ==== Sys2Proof/Syntax.lean ====
section
/-!
DEFINITION. The operations of the block: one constructor per row of spec/opcode_table.json
(spec/00_scope.md R1, spec/30_encoding.md R37). Lines and programs of the host are in Machine/ProgramText.lean.
-/

namespace Sys2Proof

/-- The two operations, each with every bit of the `data` field of its request (R38, R39).
There is no third operation (R1). -/
inductive Instr where
  /-- WIDEN: `ignored` is `data[31:16]`, which has no effect (R39); `h` is the operand `data[15:0]`. -/
  | widen (ignored : BitVec 16) (h : Half)
  /-- NARROW: the operand is the whole `data` field (R39). -/
  | narrow (s : Single)
  deriving DecidableEq, Repr

end Sys2Proof
end

