-- ==== Sys2Proof/WellFormed.lean ====
section
/-!
DEFINITION. Which instructions and which programs are well formed. Every request and every operand pattern is legal
(spec/30_encoding.md R41), so the checks are those of R42 on names.
-/

namespace Sys2Proof

/-- Every operation with every operand, and with every value of the ignored bits, is legal (R2, R39, R41). -/
def Instr.wellFormed : Instr → Bool
  | .widen _ _ => true
  | .narrow _ => true

namespace Machine

/-- A character that may open an identifier (R42 gives `t0`, `t1`, …). DESIGN CHOICE, log entry 7. -/
def isIdentStart (c : Char) : Bool := c.isAlpha || c == '_'

/-- A character that may follow in an identifier. DESIGN CHOICE, log entry 7. -/
def isIdentRest (c : Char) : Bool := c.isAlphanum || c == '_'

/-- The name is an identifier (R42). -/
def isIdentifier : Name → Bool
  | [] => false
  | c :: cs => isIdentStart c && cs.all isIdentRest

/-- The names bound so far, each with the operation of its line. -/
abbrev Scope := List (Name × OpKind)

/-- The operand of a line is a literal, or the name of an earlier line of the other operation (R42). -/
def operandInScope (scope : Scope) : LineOp → Bool
  | .widen (.literal _) => true
  | .narrow (.literal _) => true
  | .widen (.name n) => scope.lookup n == some .narrow
  | .narrow (.name n) => scope.lookup n == some .widen

/-- A name is bound once (R42). -/
def nameIsFresh (scope : Scope) : Option Name → Bool
  | none => true
  | some n => scope.lookup n == none

/-- The scope after a line. -/
def scopeAfter (scope : Scope) (l : Line) : Scope :=
  match l.name with
  | none => scope
  | some n => (n, lineKind l.op) :: scope

/-- Every line of the program refers to names in scope and binds a fresh name, from a scope on (R42). -/
def scopedFrom (scope : Scope) : Program → Bool
  | [] => true
  | l :: rest =>
    operandInScope scope l.op && nameIsFresh scope l.name && scopedFrom (scopeAfter scope l) rest

/-- The names that a line binds or refers to are identifiers (R42). -/
def lineNamesOk (l : Line) : Bool :=
  l.name.all isIdentifier && (lineOperandName l.op).all isIdentifier

/-- A program is well formed (R42): identifiers, each bound once, operands that name an earlier line of the other
operation. -/
def programWellFormed (p : Program) : Bool := p.all lineNamesOk && scopedFrom [] p

end Machine
end Sys2Proof
end

