-- ==== Sys2Proof/Decode.lean ====
section
/-!
DEFINITION. Decoding and encoding of request words (spec/30_encoding.md R38, R39, R41). The block has no bytes at its
ports (spec/20_memory.md R21), so a request is a 33-bit word, bit 0 least significant, and every such word decodes.
-/

namespace Sys2Proof

/-- The `op` field, bit 32 (R38). -/
def opField (w : RequestWord) : BitVec 1 := w.extractLsb' 32 1

/-- The `data` field, bits 31:0 (R38). -/
def dataField (w : RequestWord) : BitVec 32 := w.extractLsb' 0 32

/-- The decoder of request words: total, it reads bit 32 and nothing else to choose the operation (R38, R41). -/
def decode (w : RequestWord) : Instr :=
  if opField w = 0#1 then
    .widen ((dataField w).extractLsb' 16 16) ((dataField w).extractLsb' 0 16)
  else
    .narrow (dataField w)

/-- The reasons why a number is not the number of a request word. -/
inductive Reject where
  /-- The number has a bit above bit 32, so no 33-bit word has it (R38). -/
  | widerThanRequest
  deriving DecidableEq, Repr

/-- The decoder on a number of any size: a number of 33 bits is decoded, a wider one is no request word (R38).
Log entry 5. -/
def decodeNumber (w : Nat) : Except Reject Instr :=
  if w < 2 ^ 33 then .ok (decode (BitVec.ofNat 33 w)) else .error .widerThanRequest

/-- The instruction the decoder reads from a request numbered as spec/opcode_table.json numbers it. A request has one
word of 33 bits, so the number of bits the caller counts changes nothing. -/
def decodeTableWord (_nbits w : Nat) : Option Instr :=
  match decodeNumber w with
  | .ok i => some i
  | .error _ => none

/-- The request word of an instruction, from the layout of format REQ (R38): `op` above `data`. -/
def encode : Instr → RequestWord
  | .widen ignored h => 0#1 ++ (ignored ++ h : BitVec 32)
  | .narrow s => 1#1 ++ s

/-- The mask of both rows of the opcode map (R40's table: bit 32). -/
def tableMask : RequestWord := 0x100000000#33

/-- The match word of an instruction's row of the opcode map. -/
def tableMatch : Instr → RequestWord
  | .widen _ _ => 0x000000000#33
  | .narrow _ => 0x100000000#33

end Sys2Proof
end

