-- ==== Sys2Proof/Config.lean ====
section
/-!
DEFINITION. What is fixed for this hardware: the constants of spec/00_scope.md R5, none of them configurable, and
the interface parameters listed after it.
-/

namespace Sys2Proof.Config

/-- `H_BITS` (R5): width of a binary16 pattern. -/
def hBits : Nat := 16
/-- `H_EXP_BITS` (R5). -/
def hExpBits : Nat := 5
/-- `H_FRAC_BITS` (R5). -/
def hFracBits : Nat := 10
/-- `H_BIAS` (R5): binary16 exponent bias. -/
def hBias : Nat := 15
/-- `H_EXP_MAX` (R5): binary16 all-ones exponent field. -/
def hExpMax : Nat := 31
/-- `S_BITS` (R5): width of a binary32 pattern. -/
def sBits : Nat := 32
/-- `S_EXP_BITS` (R5). -/
def sExpBits : Nat := 8
/-- `S_FRAC_BITS` (R5). -/
def sFracBits : Nat := 23
/-- `S_BIAS` (R5): binary32 exponent bias. -/
def sBias : Nat := 127
/-- `S_EXP_MAX` (R5): binary32 all-ones exponent field. -/
def sExpMax : Nat := 255
/-- `REBIAS` (R5): difference of the two exponent fields for the same value. -/
def rebias : Nat := sBias - hBias
/-- `FRAC_SHIFT` (R5): shift between the two fraction fields. -/
def fracShift : Nat := sFracBits - hFracBits

/-- `LATENCY` (R104, D14): the model has no time. Log entry 12. -/
def latency : Nat := 0

/-- The two values of the open parameter `HOST_BYTE_ORDER` (spec/92_eei_decisions.md D15). -/
inductive ByteOrder where
  | little
  | big
  deriving DecidableEq, Repr, Inhabited

/-- `HOST_BYTE_ORDER` (R21, D15): open, a property of whatever stores patterns outside the block, read by no rule;
it has no body, so no proof can rest on a value of it. Log entry 11. -/
opaque hostByteOrder : ByteOrder

end Sys2Proof.Config
end

