-- ==== Sys2Proof/Machine/Operands.lean ====
section
/-!
DEFINITION. The two data formats: the fields of a pattern, its class, its quiet bit and its payload
(spec/30_encoding.md R30, R31, R34 to R36). Each operation has one operand, the whole pattern, whose fields these are
(section 5 there); there is no immediate and no addressing mode.
-/

namespace Sys2Proof.Machine

/-! ### binary16 (R30) -/

/-- The sign field, bit 15. -/
def sign16 (h : Half) : BitVec 1 := h.extractLsb' 15 1
/-- The exponent field, bits 14:10. -/
def exp16 (h : Half) : BitVec 5 := h.extractLsb' 10 5
/-- The fraction field, bits 9:0. -/
def frac16 (h : Half) : BitVec 10 := h.extractLsb' 0 10
/-- The pattern of three fields. -/
def pack16 (sgn : BitVec 1) (e : BitVec 5) (f : BitVec 10) : Half := sgn ++ e ++ f
/-- The magnitude pattern: everything but the sign (mask `0x7FFF`). -/
def mag16 (h : Half) : Half := h &&& 0x7FFF#16

/-! ### binary32 (R31) -/

/-- The sign field, bit 31. -/
def sign32 (s : Single) : BitVec 1 := s.extractLsb' 31 1
/-- The exponent field, bits 30:23. -/
def exp32 (s : Single) : BitVec 8 := s.extractLsb' 23 8
/-- The fraction field, bits 22:0. -/
def frac32 (s : Single) : BitVec 23 := s.extractLsb' 0 23
/-- The pattern of three fields. -/
def pack32 (sgn : BitVec 1) (e : BitVec 8) (f : BitVec 23) : Single := sgn ++ e ++ f
/-- The magnitude pattern: everything but the sign (mask `0x7FFFFFFF`). -/
def mag32 (s : Single) : Single := s &&& 0x7FFFFFFF#32

/-! ### Classes (R34, R35) -/

/-- The five classes of patterns, the same for both formats. -/
inductive FloatClass where
  | zero
  | subnormal
  | normal
  | infinity
  | nan
  deriving DecidableEq, Repr

/-- The class decided by the fields, given the all-ones exponent of the format: the sign plays no part. -/
def classOfFields (expMax e f : Nat) : FloatClass :=
  if e = 0 then
    if f = 0 then .zero else .subnormal
  else if e = expMax then
    if f = 0 then .infinity else .nan
  else .normal

/-- The class of a binary16 pattern (R34). -/
def class16 (h : Half) : FloatClass :=
  classOfFields Config.hExpMax (exp16 h).toNat (frac16 h).toNat

/-- The class of a binary32 pattern (R35). -/
def class32 (s : Single) : FloatClass :=
  classOfFields Config.sExpMax (exp32 s).toNat (frac32 s).toNat

/-- A pattern is finite when it is zero, subnormal or normal (R34). -/
def FloatClass.isFinite : FloatClass → Bool
  | .zero => true
  | .subnormal => true
  | .normal => true
  | .infinity => false
  | .nan => false

/-! ### NaNs (R36) -/

/-- A binary16 NaN with its most significant fraction bit, bit 9, set. -/
def isQuietNaN16 (h : Half) : Bool := class16 h == .nan && h.getLsbD 9
/-- A binary16 NaN with bit 9 clear. -/
def isSignalingNaN16 (h : Half) : Bool := class16 h == .nan && !h.getLsbD 9
/-- The payload of a binary16 NaN: bits 8:0. -/
def payload16 (h : Half) : BitVec 9 := h.extractLsb' 0 9

/-- A binary32 NaN with its most significant fraction bit, bit 22, set. -/
def isQuietNaN32 (s : Single) : Bool := class32 s == .nan && s.getLsbD 22
/-- A binary32 NaN with bit 22 clear. -/
def isSignalingNaN32 (s : Single) : Bool := class32 s == .nan && !s.getLsbD 22
/-- The payload of a binary32 NaN: bits 21:0. -/
def payload32 (s : Single) : BitVec 22 := s.extractLsb' 0 22

/-! ### Bit positions and rounding -/

/-- `msb_index` of spec/00_scope.md section 5.1: for a non-zero number, the unique `p` with `2^p <= n < 2^(p+1)`. -/
def msbIndex (n : Nat) : Nat := Nat.log2 n

/-- `ROUND_UP(v, sh)` of R66: whether `v`, about to lose its `sh >= 1` lowest bits, is incremented after the
truncation. The mask is the corrected one of spec/90_conflicts.md C1: round bit, sticky bits, and the kept value's
lowest bit. -/
def roundUp (v sh : Nat) : Bool :=
  let roundBit : Nat := 1 <<< (sh - 1)
  let rnd : Bool := (v &&& roundBit) != 0
  let sticky : Bool := (v &&& (roundBit - 1)) != 0
  let odd : Bool := (v &&& (roundBit <<< 1)) != 0
  rnd && (sticky || odd)

end Sys2Proof.Machine
end

