-- ==== Sys2Proof/Machine/State.lean ====
section
/-!
DEFINITION. The state, the reasons to stop, and the state after reset. The block has no storage element of any kind
(spec/10_state.md R10 to R14, R18): what stands here is its INTERFACE, the wires the host drives and the last response
it read. Log entry 1.
-/

namespace Sys2Proof.Machine

/-- The block raises no exception: the list of exception causes of this hardware is empty
(spec/60_exceptions.md R90), so there is no fault. Safe: no step ends in one. Log entry 14. -/
inductive Fault
  deriving DecidableEq, Repr

/-- No request is refused (spec/30_encoding.md R41, spec/60_exceptions.md). The one constructor is the host's form for
an instruction without a meaning. -/
inductive Refusal where
  /-- Raised by no arm of `exec`, since both instructions have their meaning. Safe: a stop proves nothing false. -/
  | notModelled (mnemonic : String)
  deriving DecidableEq, Repr

/-- The values on the block's interface. The outputs `widen_out` and `narrow_out` are not stored: they are functions
of the inputs at every instant (spec/10_state.md R16). -/
structure State where
  /-- The pattern the host holds on input port `widen_in` (R16). -/
  widenIn : Half
  /-- The pattern the host holds on input port `narrow_in` (R16). -/
  narrowIn : Single
  /-- The request word the host presents (R38). -/
  request : RequestWord
  /-- The response word of the last evaluation (R40). -/
  response : ResponseWord
  deriving DecidableEq, Repr

/-- The state after power-up. The spec gives the block nothing to reset (spec/70_reset_and_hazards.md R100): the values
are what the model says the host drives. DESIGN CHOICE, log entry 3. -/
def State.reset : State where
  widenIn := 0#16
  narrowIn := 0#32
  request := 0#33
  response := 0#32

end Sys2Proof.Machine
end

