-- ==== Sys2Proof/Machine/Ops.lean ====
section
/-!
DEFINITION. The named operations over the interface: what the host and an evaluation do to the ports and words.
There is no register file, no memory, no trap entry and no trap return to model (spec/10_state.md R10,
spec/20_memory.md R20, spec/60_exceptions.md R90, R94): the primitives `x[i]`, `MemRead`, `MemWrite`, `raise` and `pc`
appear in no rule (spec/00_scope.md section 5.2).
-/

namespace Sys2Proof.Machine

/-- Hold a pattern on input port `widen_in` (R16); the other port keeps its pattern. -/
def State.driveWidenIn (s : State) (h : Half) : State := { s with widenIn := h }

/-- Hold a pattern on input port `narrow_in` (R16); the other port keeps its pattern. -/
def State.driveNarrowIn (s : State) (x : Single) : State := { s with narrowIn := x }

/-- Present a request word (R38). -/
def State.present (s : State) (w : RequestWord) : State := { s with request := w }

/-- Give the response of an evaluation (R40). -/
def State.respond (s : State) (r : ResponseWord) : State := { s with response := r }

/-- The request word an evaluation answers. The block fetches nothing from a memory (R11, R27): the word is the one the
host presents. -/
def State.fetch (s : State) : RequestWord := s.request

end Sys2Proof.Machine
end

