-- ==== Sys2Proof/Machine/Narrow.lean ====
section
/-!
DEFINITION. NARROW: binary32 to binary16, round-to-nearest-even (spec/41_narrow.md R60 to R69), one definition per
case, and the meaning of the NARROW request. There is no rounding mode (spec/00_scope.md R3, spec/10_state.md R13).
-/

namespace Sys2Proof.Machine

/-- The sign moved to bit 15 (R61): `0x0000` or `0x8000`. NaNs keep it too (decision D9 of the spec; log entry 6). -/
def narrowSign (s : Single) : Half := (sign32 s).setWidth 16 <<< 15

/-- `he`, the half_exponent (R60): a mathematical integer, -112 to 143, that never wraps. -/
def halfExponent (s : Single) : Int := (exp32 s).toNat - (Config.rebias : Int)

/-- Infinity (R62, R64): exponent all ones, fraction zero. -/
def narrowInf : Half := 0x7C00#16

/-- NaN (R63): exponent all ones, bit 9 forced, the top ten fraction bits kept, the low thirteen dropped without
rounding (decisions D8 and D10 of the spec; log entry 6). -/
def narrowNan (F : BitVec 23) : Half :=
  0x7C00#16 ||| 0x0200#16 ||| (F.extractLsb' 13 10).setWidth 16

/-- Subnormal range (R67), for `-10 <= he <= 0`: the 24-bit significand shifted right by `14 - he` and rounded; at most
`0x400`. -/
def narrowSub (he : Int) (F : BitVec 23) : Nat :=
  let sig : Nat := 0x800000 ||| F.toNat
  let sh : Nat := (14 - he).toNat
  let m : Nat := sig >>> sh
  if roundUp sig sh then m + 1 else m

/-- Normal range (R68), for `1 <= he <= 30`: sign, `he` and the top ten fraction bits, incremented as one 16-bit
integer when the thirteen dropped bits round up. -/
def narrowNorm (S16 : Half) (he : Int) (F : BitVec 23) : Half :=
  let base : Half := S16 ||| (BitVec.ofNat 16 he.toNat <<< 10) ||| (F.extractLsb' 13 10).setWidth 16
  if roundUp F.toNat Config.fracShift then base + 1#16 else base

/-- NARROW (R60): decompose, then the FIRST case that applies; the test for the all-ones exponent comes before the
overflow test (R93). -/
def narrow (s : Single) : Half :=
  let E := exp32 s
  let F := frac32 s
  let S16 := narrowSign s
  let he := halfExponent s
  if E.toNat = Config.sExpMax ∧ F = 0#23 then S16 ||| narrowInf
  else if E.toNat = Config.sExpMax then S16 ||| narrowNan F
  else if he ≥ 31 then S16 ||| narrowInf
  else if he < -10 then S16
  else if he ≤ 0 then S16 + BitVec.ofNat 16 (narrowSub he F)
  else narrowNorm S16 he F

/-- Output port `narrow_out` (R16): at every instant NARROW of `narrow_in`. -/
def State.narrowOut (s : State) : Half := narrow s.narrowIn

/-- The meaning of a NARROW request (R40, R60): the operand stands on `narrow_in` and the response is `narrow_out`,
zero-extended to 32 bits. Log entry 2. -/
def execNarrow (x : Single) (s : State) : Host.Outcome State Fault Refusal :=
  let t := s.driveNarrowIn x
  .next (t.respond (t.narrowOut.setWidth 32))

end Sys2Proof.Machine
end

