-- ==== Sys2Proof/Machine/Widen.lean ====
section
/-!
DEFINITION. WIDEN: binary16 to binary32 (spec/40_widen.md R50 to R56), one definition per case, and the meaning of the
WIDEN request.
-/

namespace Sys2Proof.Machine

/-- The sign moved to bit 31 (R51): `0x00000000` or `0x80000000`. -/
def widenSign (h : Half) : Single := (sign16 h).setWidth 32 <<< 31

/-- Infinity (R52): exponent all ones, fraction zero. -/
def widenInf : Single := 0x7F800000#32

/-- NaN (R53): exponent all ones, the fraction moved unchanged to the top of the wider field; no bit is forced
(decision D7 of the spec; log entry 6). -/
def widenNan (f : BitVec 10) : Single := 0x7F800000#32 ||| (f.setWidth 32 <<< Config.fracShift)

/-- Subnormal, closed form (R55): exponent field `103 + p`, the fraction with its leading 1 removed and left-aligned,
where `p` is the position of the leading 1. -/
def widenSub (f : BitVec 10) : Single :=
  let p := msbIndex f.toNat
  (BitVec.ofNat 32 (103 + p) <<< 23) ||| ((f.setWidth 32 <<< (23 - p)) &&& 0x007FFFFF#32)

/-- The normalisation loop of R55 on the working value `m` and the exponent counter `ec`: while bit 10 of `m` is clear,
shift `m` left and decrement `ec`. The first argument bounds the number of turns, at most 10 by R55 and R105. -/
def normaliseLoop : Nat → Nat → Int → Nat × Int
  | 0, m, ec => (m, ec)
  | fuel + 1, m, ec => if m &&& 0x400 = 0 then normaliseLoop fuel (m <<< 1) (ec - 1) else (m, ec)

/-- Subnormal, loop form (R55): the counter starts at 1 (decision D11 of the spec), and 0x70 is added after the
normalisation. -/
def widenSubLoop (f : BitVec 10) : Single :=
  let r := normaliseLoop 10 f.toNat 1
  let e : Int := r.2 + 0x70
  let fr : Nat := (r.1 &&& 0x3FF) <<< 13
  BitVec.ofNat 32 ((e.toNat <<< 23) ||| fr)

/-- Normal (R56): the exponent field rebiased by 112, the fraction left-aligned in the wider field. -/
def widenNorm (e : BitVec 5) (f : BitVec 10) : Single :=
  (BitVec.ofNat 32 (e.toNat + Config.rebias) <<< 23) ||| (f.setWidth 32 <<< Config.fracShift)

/-- WIDEN (R50): decompose, then the first case that applies, in the order of the rule. -/
def widen (h : Half) : Single :=
  let e := exp16 h
  let f := frac16 h
  let S32 := widenSign h
  if e = 0x1F#5 ∧ f = 0#10 then S32 ||| widenInf
  else if e = 0x1F#5 then S32 ||| widenNan f
  else if e = 0#5 ∧ f = 0#10 then S32
  else if e = 0#5 then S32 ||| widenSub f
  else S32 ||| widenNorm e f

/-- Output port `widen_out` (R16): at every instant WIDEN of `widen_in`. -/
def State.widenOut (s : State) : Single := widen s.widenIn

/-- The meaning of a WIDEN request (R40, R50): the operand stands on `widen_in` and the response is `widen_out`. The
ignored bits of the request are no argument (R39). Log entry 2. -/
def execWiden (h : Half) (s : State) : Host.Outcome State Fault Refusal :=
  let t := s.driveWidenIn h
  .next (t.respond t.widenOut)

end Sys2Proof.Machine
end

