-- ==== Sys2Proof/Machine/Dispatch.lean ====
section
/-!
DEFINITION. The dispatch of the two operations to their meanings, one arm per constructor (spec/30_encoding.md R37).
-/

namespace Sys2Proof.Machine

def exec (i : Instr) (s : State) : Host.Outcome State Fault Refusal :=
  match i with
  | .widen _ h => Sys2Proof.Machine.execWiden h s
  | .narrow x => Sys2Proof.Machine.execNarrow x s

end Sys2Proof.Machine
end

