-- ==== Sys2Proof/Machine/Step.lean ====
section
/-!
DEFINITION. One step is one evaluation: the answer to the request the host presents (spec/30_encoding.md R40;
spec/70_reset_and_hazards.md section 5). The request stays presented, so a step may be repeated
(spec/20_memory.md R23).
-/

namespace Sys2Proof.Machine

/-- Decode the presented request, which always succeeds (R41), and carry it out. -/
def step (s : State) : Host.Outcome State Fault Refusal := exec (decode s.fetch) s

/-- The state with the request of the given number presented, so that the very next step answers it (log entry 4). A
number with a bit above bit 32 is the number of no request word (R38) and `decodeNumber` rejects it; here its 33 lowest
bits are presented. DESIGN CHOICE, log entry 17. -/
def State.withFetchWord (s : State) (_nbits w : Nat) : State := s.present (BitVec.ofNat 33 w)

end Sys2Proof.Machine
end

