-- ==== Sys2Proof/Machine/Assembler.lean ====
section
/-!
DEFINITION. The assembler text of spec/30_encoding.md R42: one request per line, mnemonics in upper case, hexadecimal
literals of 4 digits (WIDEN) or 8 digits (NARROW), names, and comments from `;` to the end of the line; there are no
pseudo-instructions. What R42 does not fix (white space, hexadecimal letter case, the characters of an identifier,
blank lines) is chosen in log entry 7.
-/

namespace Sys2Proof.Machine

/-- A character that separates words of a line. -/
def isSpaceChar (c : Char) : Bool := c == ' ' || c == '\t' || c == '\r'

/-- The line without its comment: a comment starts with `;` and runs to the end of the line (R42). -/
def stripComment (cs : List Char) : List Char := cs.takeWhile (· != ';')

/-- A word read so far, if any. -/
def flushWord : List Char → List (List Char)
  | [] => []
  | w => [w]

/-- The words of a line, `=` being a word of its own; the first argument is the word being read. -/
def wordsFrom (cur : List Char) : List Char → List (List Char)
  | [] => flushWord cur
  | c :: cs =>
    if isSpaceChar c then flushWord cur ++ wordsFrom [] cs
    else if c = '=' then flushWord cur ++ ['='] :: wordsFrom [] cs
    else wordsFrom (cur ++ [c]) cs

/-- A stretch of consecutive characters that are hexadecimal digits of consecutive values. -/
structure DigitRun where
  first : Char
  value : Nat
  count : Nat
  deriving DecidableEq, Repr

/-- The hexadecimal digits of the literals of R42. The upper case letters stand before the lower case ones, so that
they are the ones written. Log entry 7. -/
def hexDigitRuns : List DigitRun := [⟨'0', 0, 10⟩, ⟨'A', 10, 6⟩, ⟨'a', 10, 6⟩]

/-- The value a character has as a digit of a run, if it is one of the run's digits. -/
def DigitRun.valueOf (r : DigitRun) (c : Char) : Option Nat :=
  if c.toNat ∈ List.range' r.first.toNat r.count then some (r.value + (c.toNat - r.first.toNat)) else none

/-- The digit of a value in a run, if the run has one of that value. -/
def DigitRun.digitOf (r : DigitRun) (d : Nat) : Option Char :=
  if d ∈ List.range' r.value r.count then some (Char.ofNat (r.first.toNat + (d - r.value))) else none

/-- The value of a hexadecimal digit. -/
def hexDigitValue (c : Char) : Option Nat := hexDigitRuns.findSome? fun r => r.valueOf c

/-- The number a list of hexadecimal digits writes, most significant first, continuing from a number. -/
def hexValueFrom (acc : Nat) : List Char → Option Nat
  | [] => some acc
  | c :: cs =>
    match hexDigitValue c with
    | none => none
    | some d => hexValueFrom (acc * 16 + d) cs

/-- The mnemonic `WIDEN` (R42: upper case). -/
def widenMnemonic : List Char := ['W', 'I', 'D', 'E', 'N']

/-- The mnemonic `NARROW` (R42: upper case). -/
def narrowMnemonic : List Char := ['N', 'A', 'R', 'R', 'O', 'W']

/-- An operand of `digits` hexadecimal digits, or a name (R42). -/
def parseSource (digits : Nat) (cs : List Char) : Option (Source (4 * digits)) :=
  match cs with
  | '0' :: 'x' :: ds =>
    if ds.length = digits then (hexValueFrom 0 ds).map fun n => .literal (BitVec.ofNat (4 * digits) n) else none
  | _ => if isIdentifier cs then some (.name cs) else none

/-- The request of a line from its mnemonic and its operand. -/
def parseRequest (mnemonic operand : List Char) : Option LineOp :=
  if mnemonic = widenMnemonic then (parseSource 4 operand).map LineOp.widen
  else if mnemonic = narrowMnemonic then (parseSource 8 operand).map LineOp.narrow
  else none

/-- One line of text (R42): `none` where it is no line, `some none` where it holds no request (a blank line, or a
comment alone). -/
def parseLine (cs : List Char) : Option (Option Line) :=
  match wordsFrom [] (stripComment cs) with
  | [] => some none
  | [m, x] => (parseRequest m x).map fun op => some { name := none, op := op }
  | [n, ['='], m, x] =>
    if isIdentifier n then (parseRequest m x).map fun op => some { name := some n, op := op } else none
  | _ => none

/-- The lines of a text; the first argument is the line being read. -/
def linesFrom (cur : List Char) : List Char → List (List Char)
  | [] => [cur]
  | c :: cs => if c = '\n' then cur :: linesFrom [] cs else linesFrom (cur ++ [c]) cs

/-- The program of a list of lines. -/
def parseLines : List (List Char) → Option Program
  | [] => some []
  | cs :: rest =>
    match parseLine cs, parseLines rest with
    | some (some l), some p => some (l :: p)
    | some none, some p => some p
    | _, _ => none

/-- A program from its text (R42, R43). -/
def parseProgram (text : List Char) : Option Program := parseLines (linesFrom [] text)

/-- The hexadecimal digit of a number below 16, upper case; a larger number has none and is written `0`. -/
def hexDigitChar (d : Nat) : Char := (hexDigitRuns.findSome? fun r => r.digitOf d).getD '0'

/-- The `k` lowest hexadecimal digits of a number, most significant first. -/
def hexDigits : Nat → Nat → List Char
  | 0, _ => []
  | k + 1, n => hexDigitChar (n / 16 ^ k % 16) :: hexDigits k n

/-- The text of an operand. -/
def showSource (digits : Nat) : Source (4 * digits) → List Char
  | .literal v => '0' :: 'x' :: hexDigits digits v.toNat
  | .name n => n

/-- The text of a request. -/
def showRequest : LineOp → List Char
  | .widen x => widenMnemonic ++ ' ' :: showSource 4 x
  | .narrow x => narrowMnemonic ++ ' ' :: showSource 8 x

/-- The text of a line (R42). -/
def showLine (l : Line) : List Char :=
  match l.name with
  | none => showRequest l.op
  | some n => n ++ ' ' :: '=' :: ' ' :: showRequest l.op

end Sys2Proof.Machine
end

