-- ==== Sys2Proof/Machine/Flags.lean ====
section
/-!
DEFINITION. The block has no status flag, condition code or exception flag (spec/10_state.md R12), so no operation
writes one. What stands here is the list of CONDITIONS that a floating-point unit would signal
(spec/60_exceptions.md R91), as vocabulary: no operation reads or writes them.
-/

namespace Sys2Proof.Machine

/-- Overflow of NARROW: the result is signed infinity although the input was finite (spec/00_scope.md glossary,
R91). -/
def narrowOverflows (x : Single) : Bool := (class32 x).isFinite && class16 (narrow x) == .infinity

/-- Inexact NARROW of a finite operand: some discarded bit was non-zero, that is, the result does not widen back to the
operand (R91). DEDUCED, log entry 9. -/
def narrowInexact (x : Single) : Bool := (class32 x).isFinite && widen (narrow x) != x

/-- Underflow of NARROW: the result is zero or subnormal, and inexact (R91). -/
def narrowUnderflows (x : Single) : Bool :=
  narrowInexact x && (class16 (narrow x) == .zero || class16 (narrow x) == .subnormal)

/-- Invalid operation of WIDEN: a signaling NaN operand (R91). -/
def widenInvalid (h : Half) : Bool := isSignalingNaN16 h

/-- Invalid operation of NARROW: a signaling NaN operand (R91). -/
def narrowInvalid (x : Single) : Bool := isSignalingNaN32 x

end Sys2Proof.Machine
end

