-- ==== Sys2Proof/Machine/Requests.lean ====
section
/-!
DEFINITION. The unified interface seen from outside: the response a request has (spec/30_encoding.md R40), the answers
to a sequence of requests (spec/20_memory.md R25), several instances of the block (spec/60_exceptions.md R96), and the
two chains of the ports (spec/70_reset_and_hazards.md R103).
-/

namespace Sys2Proof.Machine

/-- `resp(req)` of R40, read from the bits of the request word, with no decoder between. -/
def resp (req : RequestWord) : ResponseWord :=
  if req.getLsbD 32 = false then widen (req.extractLsb' 0 16)
  else (narrow (req.extractLsb' 0 32)).setWidth 32

/-- Present each request in turn, evaluate it, and collect the responses; `none` if an evaluation stopped. -/
def answerAll (s : State) : List RequestWord → Option (List ResponseWord × State)
  | [] => some ([], s)
  | w :: ws =>
    match step (s.present w) with
    | .next t =>
      match answerAll t ws with
      | some (rs, u) => some (t.response :: rs, u)
      | none => none
    | .fault _ => none
    | .refused _ => none

/-- Several instances of the block, each with an interface of its own (R96). Log entry 13. -/
abbrev Instances := List State

/-- One evaluation on instance `k`; `none` if there is no such instance or the evaluation stopped. -/
def stepAt (k : Nat) (ms : Instances) : Option Instances :=
  match ms[k]? with
  | none => none
  | some m =>
    match step m with
    | .next t => some (ms.set k t)
    | .fault _ => none
    | .refused _ => none

/-- `widen_out` wired to `narrow_in` (R103). -/
def State.chainWidenToNarrow (s : State) : State := s.driveNarrowIn s.widenOut

/-- `narrow_out` wired to `widen_in` (R103). -/
def State.chainNarrowToWiden (s : State) : State := s.driveWidenIn s.narrowOut

end Sys2Proof.Machine
end

