-- ==== Sys2Proof/Machine/Program.lean ====
section
/-!
DEFINITION. What a program of the host means (spec/30_encoding.md R42, R43): the list of its responses, each computed
from its own request after name substitution, and how the host carries it out on the block, one step a line. The block
itself executes no program (spec/10_state.md R11).
-/

namespace Sys2Proof.Machine

/-- The named response of an earlier line. -/
structure Binding where
  name : Name
  kind : OpKind
  response : ResponseWord
  deriving DecidableEq, Repr

/-- The named responses so far, the latest first. -/
abbrev Env := List Binding

/-- Why a text is no program of R42. The spec gives such a text no meaning. DESIGN CHOICE, log entry 8. -/
inductive ProgramError where
  /-- An operand names no earlier line. -/
  | unboundName (n : Name)
  /-- An operand names a line of its own operation: WIDEN takes NARROW lines, and NARROW takes WIDEN lines. -/
  | wrongOperation (n : Name)
  /-- A name is bound twice. -/
  | boundTwice (n : Name)
  /-- An evaluation stopped. No evaluation does. -/
  | stopped
  deriving DecidableEq, Repr

/-- The binding of a name. -/
def lookupName (n : Name) : Env → Option Binding
  | [] => none
  | b :: rest => if b.name = n then some b else lookupName n rest

/-- The names bound by an environment, each with the operation of its line. -/
def envScope (env : Env) : Scope := env.map fun b => (b.name, b.kind)

/-- The response a name stands for, provided its line performed the wanted operation. -/
def responseOf (env : Env) (wanted : OpKind) (n : Name) : Except ProgramError ResponseWord :=
  match lookupName n env with
  | none => .error (.unboundName n)
  | some b => if b.kind = wanted then .ok b.response else .error (.wrongOperation n)

/-- The request word of a line (R42): `WIDEN x` gives op 0, sixteen zero bits, `x`; `NARROW x` gives op 1, `x`. A named
NARROW response stands for its low 16 bits. -/
def assemble (env : Env) : LineOp → Except ProgramError RequestWord
  | .widen (.literal v) => .ok (encode (.widen 0#16 v))
  | .narrow (.literal v) => .ok (encode (.narrow v))
  | .widen (.name n) =>
    match responseOf env .narrow n with
    | .ok r => .ok (encode (.widen 0#16 (r.setWidth 16)))
    | .error e => .error e
  | .narrow (.name n) =>
    match responseOf env .widen n with
    | .ok r => .ok (encode (.narrow r))
    | .error e => .error e

/-- The environment after a line with the given response; a name is bound once (R42). -/
def bindLine (env : Env) (l : Line) (r : ResponseWord) : Except ProgramError Env :=
  match l.name with
  | none => .ok env
  | some n =>
    match lookupName n env with
    | none => .ok ({ name := n, kind := lineKind l.op, response := r } :: env)
    | some _ => .error (.boundTwice n)

/-- The meaning of a program (R43), from the names bound so far: its responses, and the named responses at its end. -/
def meaningFrom (env : Env) : Program → Except ProgramError (List ResponseWord × Env)
  | [] => .ok ([], env)
  | l :: rest =>
    match assemble env l.op with
    | .error e => .error e
    | .ok w =>
      match bindLine env l (resp w) with
      | .error e => .error e
      | .ok env' =>
        match meaningFrom env' rest with
        | .error e => .error e
        | .ok (rs, final) => .ok (resp w :: rs, final)

/-- The meaning of a whole program: nothing is bound before its first line. -/
def programMeaning (p : Program) : Except ProgramError (List ResponseWord × Env) := meaningFrom [] p

/-- The host carries out a program on the block: it assembles each line, presents the word, evaluates, and reads the
response. -/
def runFrom (s : State) (env : Env) : Program → Except ProgramError (List ResponseWord × Env × State)
  | [] => .ok ([], env, s)
  | l :: rest =>
    match assemble env l.op with
    | .error e => .error e
    | .ok w =>
      match step (s.present w) with
      | .fault _ => .error .stopped
      | .refused _ => .error .stopped
      | .next t =>
        match bindLine env l t.response with
        | .error e => .error e
        | .ok env' =>
          match runFrom t env' rest with
          | .error e => .error e
          | .ok (rs, final, u) => .ok (t.response :: rs, final, u)

/-- The host carries out a whole program. -/
def runProgram (s : State) (p : Program) : Except ProgramError (List ResponseWord × Env × State) := runFrom s [] p

end Sys2Proof.Machine
end

