-- ==== Sys2Proof/Machine/Values.lean ====
section
/-!
DEFINITION. The value a pattern denotes (spec/30_encoding.md R32, R33), the order of values, and what it is to be the
nearest binary16 magnitude with ties to even (spec/42_laws.md R83). These are the vocabulary of the laws: the bit-level
rules define the two operations, and nothing here is used by them (spec/00_scope.md section 5.3). The written-out
formulas are the spec's own general knowledge (spec/93_implementation_defined.md G2; log entry 16).
-/

namespace Sys2Proof.Machine

/-- A value: a signed real magnitude (a zero keeps its sign), a signed infinity, or not a number. Every finite value
of either format is rational. -/
inductive Value where
  | finite (negative : Bool) (magnitude : ℚ)
  | infinity (negative : Bool)
  | nan
  deriving DecidableEq, Repr

/-- The value of a binary16 pattern (R32). -/
def val16 (h : Half) : Value :=
  let neg := h.getLsbD 15
  let e := (exp16 h).toNat
  let f := (frac16 h).toNat
  match class16 h with
  | .zero => .finite neg 0
  | .subnormal => .finite neg ((2 : ℚ) ^ (-14 : ℤ) * ((f : ℚ) / 1024))
  | .normal => .finite neg ((2 : ℚ) ^ ((e : ℤ) - 15) * (1 + (f : ℚ) / 1024))
  | .infinity => .infinity neg
  | .nan => .nan

/-- The value of a binary32 pattern (R33). -/
def val32 (s : Single) : Value :=
  let neg := s.getLsbD 31
  let e := (exp32 s).toNat
  let f := (frac32 s).toNat
  match class32 s with
  | .zero => .finite neg 0
  | .subnormal => .finite neg ((f : ℚ) * (2 : ℚ) ^ (-149 : ℤ))
  | .normal => .finite neg ((2 : ℚ) ^ ((e : ℤ) - 127) * (1 + (f : ℚ) / 2 ^ 23))
  | .infinity => .infinity neg
  | .nan => .nan

/-- A finite value as a real number; the two zeros are the same number. -/
def signedMagnitude (negative : Bool) (magnitude : ℚ) : ℚ := if negative then -magnitude else magnitude

/-- The order of the extended reals on values (R57 item 5, R85); a NaN is in no relation. -/
def Value.le : Value → Value → Prop
  | .nan, _ => False
  | _, .nan => False
  | .infinity true, _ => True
  | _, .infinity false => True
  | .infinity false, _ => False
  | _, .infinity true => False
  | .finite na a, .finite nb b => signedMagnitude na a ≤ signedMagnitude nb b

/-- The strict order of the extended reals on values (R57 item 5). -/
def Value.lt (a b : Value) : Prop := a.le b ∧ ¬ b.le a

/-- The value of a binary16 magnitude pattern as a number `k` (R32, R83). At `k = 0x7C00` the normal formula gives
65536, which is the virtual value by which R83 extends the list of magnitudes. -/
def magnitudeValue (k : Nat) : ℚ :=
  if k / 1024 = 0 then (2 : ℚ) ^ (-14 : ℤ) * (((k % 1024 : Nat) : ℚ) / 1024)
  else (2 : ℚ) ^ (((k / 1024 : Nat) : ℤ) - 15) * (1 + ((k % 1024 : Nat) : ℚ) / 1024)

/-- `k` is the round-to-nearest-even image of the non-negative number `v` among the finite binary16 magnitude patterns
(R83): none of them is nearer, and if another one is as near then `k` is the even one. -/
def IsNearestEven (v : ℚ) (k : Nat) : Prop :=
  k ≤ 0x7BFF ∧
  (∀ j, j ≤ 0x7BFF → |v - magnitudeValue k| ≤ |v - magnitudeValue j|) ∧
  (∀ j, j ≤ 0x7BFF → j ≠ k → |v - magnitudeValue j| = |v - magnitudeValue k| → k % 2 = 0)

end Sys2Proof.Machine
end

