-- ==== Sys2Proof/Safety.lean ====
section
/-!
DEFINITION. What a safe run is, and the relations the claims use. Every evaluation is safe: no operand makes the block
fault, no request is refused, and no evaluation hangs (spec/60_exceptions.md).
-/

namespace Sys2Proof.Machine

/-- The instruction completes at the state, with the given response. -/
def Answers (i : Instr) (s : State) (r : ResponseWord) : Prop :=
  ∃ t, exec i s = .next t ∧ t.response = r

/-- The interface shows one evaluation: the response belongs to the presented request (R40, R102), and the port that
the request selects holds its operand (R15). -/
def Settled (s : State) : Prop :=
  s.response = resp s.request ∧
  (s.request.getLsbD 32 = false → s.widenIn = s.request.extractLsb' 0 16) ∧
  (s.request.getLsbD 32 = true → s.narrowIn = s.request.extractLsb' 0 32)

/-- The response word has the form its operation gives: a WIDEN response has its thirteen lowest bits zero and is no
binary32 subnormal (R57); a NARROW response has its sixteen highest bits zero and carries no signaling NaN (R40,
R71). -/
def ResponseForm (s : State) : Prop :=
  (s.request.getLsbD 32 = false →
    s.response.extractLsb' 0 13 = 0#13 ∧ class32 s.response ≠ .subnormal) ∧
  (s.request.getLsbD 32 = true →
    s.response.extractLsb' 16 16 = 0#16 ∧ isSignalingNaN16 (s.response.extractLsb' 0 16) = false)

end Sys2Proof.Machine
end

