-- ==== Sys2Proof/Certificates/Slice0/Obligations.lean ====
section
/-!
DEFINITION. The statements for the provers, in the order of OBLIGATIONS.json. Each docstring says which rule of spec/ it
formalises, or which decision of the spec or log entry of the model it rests on. Nothing is proved here.
-/

open Sys2Proof Sys2Proof.Machine

/-! ### The step, the request word and the response word -/

/-- A step carries out the decoded request, and adds nothing around it (R38, R40; that a step answers the presented word
is the model's choice, log entries 1 and 4). -/
def Obligations.StepCarriesOutTheDecodedRequest : Prop :=
  (∀ s : State, step s = exec (decode s.request) s) ∧
  (∀ (i : Instr) (s : State), i.wellFormed = true →
    step (s.present (encode i)) = exec i (s.present (encode i)))

/-- No bit of an instruction is dropped by its request word (layout of R38 and R39, the spec's decisions D3 and D4). -/
def Obligations.DecodeOfEncodeIsTheInstruction : Prop :=
  ∀ i : Instr, i.wellFormed = true → decode (encode i) = i

/-- No bit of a request word is dropped by the decoder, and every word is legal (R38, R41; decisions D3 and D4). -/
def Obligations.EncodeOfDecodeIsTheWord : Prop :=
  ∀ w : RequestWord, (decode w).wellFormed = true ∧ encode (decode w) = w

/-- The rows of the opcode map, by mask and match, are the two operations, and no word is outside them (the map under
R40; decision D3). -/
def Obligations.OpcodeRowsSelectTheOperation : Prop :=
  ∀ w : RequestWord,
    (w &&& 0x100000000#33 = 0x000000000#33 ↔ ∃ g h, decode w = .widen g h) ∧
    (w &&& 0x100000000#33 = 0x100000000#33 ↔ ∃ x, decode w = .narrow x) ∧
    (w &&& 0x100000000#33 = 0x000000000#33 ∨ w &&& 0x100000000#33 = 0x100000000#33)

/-- Request words written out from R38 decode to the requests of programs P1, P2, P3 and P5. -/
def Obligations.WrittenOutRequestWordsDecode : Prop :=
  decode 0x000003C00#33 = .widen 0x0000#16 0x3C00#16 ∧
  decode 0x13F800000#33 = .narrow 0x3F800000#32 ∧
  decode 0x140490FDB#33 = .narrow 0x40490FDB#32 ∧
  decode 0x00000FC01#33 = .widen 0x0000#16 0xFC01#16 ∧
  decode 0x0DEAD0001#33 = .widen 0xDEAD#16 0x0001#16

/-- `data[31:16]` of a WIDEN request has no effect, in the request word or in the instruction (R39, decision D4). -/
def Obligations.IgnoredBitsHaveNoEffect : Prop :=
  (∀ (g g' : BitVec 16) (h : Half) (s : State), exec (.widen g h) s = exec (.widen g' h) s) ∧
  (∀ w w' : RequestWord, w.getLsbD 32 = false → w'.getLsbD 32 = false →
    w.extractLsb' 0 16 = w'.extractLsb' 0 16 →
    ∀ s : State, ∃ t t', step (s.present w) = .next t ∧ step (s.present w') = .next t' ∧ t.response = t'.response)

/-- The response to the presented request is the one R40 computes from its bits, for every request (decision D5). That
the request stays presented, the clause on `t.request`, is no rule: it is the model's choice, log entries 1 and 4. -/
def Obligations.EveryResponseIsThatOfItsRequest : Prop :=
  ∀ s : State, ∃ t, step s = .next t ∧ t.request = s.request ∧
    (s.request.getLsbD 32 = false → t.response = widen (s.request.extractLsb' 0 16)) ∧
    (s.request.getLsbD 32 = true →
      t.response.extractLsb' 0 16 = narrow (s.request.extractLsb' 0 32) ∧
      t.response.extractLsb' 16 16 = 0#16)

/-- R2: both operations are total, with exactly one result for each operand and no error case. -/
def Obligations.BothOperationsAreTotal : Prop :=
  (∀ (i : Instr) (s : State), ∃ t, exec i s = .next t) ∧
  (∀ h : Half, ∃! r : ResponseWord, ∀ (g : BitVec 16) (s : State), Answers (.widen g h) s r) ∧
  (∀ x : Single, ∃! r : ResponseWord, ∀ s : State, Answers (.narrow x) s r)

/-- R90: the list of exception causes is empty, and no evaluation fails. -/
def Obligations.NoExceptionIsRaised : Prop :=
  IsEmpty Fault ∧ ∀ s : State, ∃ t, step s = .next t

/-- What a WIDEN request does and what it leaves alone (R40, R50 for the response; that the operand stands on `widen_in`
afterwards, and that the request and `narrow_in` are left alone, is the model's choice, log entries 2 and 4). -/
def Obligations.WidenRequestResultAndFrame : Prop :=
  ∀ (g : BitVec 16) (h : Half) (s : State), ∃ t, exec (.widen g h) s = .next t ∧
    t.response = widen h ∧ t.widenIn = h ∧ t.widenOut = widen h ∧
    t.narrowIn = s.narrowIn ∧ t.narrowOut = s.narrowOut ∧ t.request = s.request

/-- What a NARROW request does and what it leaves alone (R40, R60 for the response; that the operand stands on
`narrow_in` afterwards, and that the request and `widen_in` are left alone, is the model's choice, log entries 2 and 4). -/
def Obligations.NarrowRequestResultAndFrame : Prop :=
  ∀ (x : Single) (s : State), ∃ t, exec (.narrow x) s = .next t ∧
    t.response.extractLsb' 0 16 = narrow x ∧ t.response.extractLsb' 16 16 = 0#16 ∧
    t.narrowIn = x ∧ t.narrowOut = narrow x ∧
    t.widenIn = s.widenIn ∧ t.widenOut = s.widenOut ∧ t.request = s.request

/-- The result depends on the operand and on nothing else: on no earlier evaluation and on no part of the state (R4; that
the ignored bits do nothing is R39, decision D4). That an evaluation leaves the request presented (log entry 4) and the
other operation's input port alone (log entry 2) is the model's choice. -/
def Obligations.ResultDependsOnTheOperandOnly : Prop :=
  (∀ (g g' : BitVec 16) (h : Half) (s s' : State), ∃ t t',
    exec (.widen g h) s = .next t ∧ exec (.widen g' h) s' = .next t' ∧ t.response = t'.response ∧
    t.request = s.request ∧ t.narrowIn = s.narrowIn) ∧
  (∀ (x : Single) (s s' : State), ∃ t t',
    exec (.narrow x) s = .next t ∧ exec (.narrow x) s' = .next t' ∧ t.response = t'.response ∧
    t.request = s.request ∧ t.widenIn = s.widenIn) ∧
  (∀ (i j : Instr) (s : State), ∃ t u v,
    exec j s = .next u ∧ exec i u = .next v ∧ exec i s = .next t ∧ v.response = t.response)

/-- Evaluating the same request again changes nothing. That the result is the same is R23, which the spec derives; that
the request stays presented, so that a further step answers it again (log entry 4), and that the state is the four wires
of the interface (log entry 1) is the model's choice. -/
def Obligations.RepeatingAnEvaluationChangesNothing : Prop :=
  ∀ s : State, ∃ t, step s = .next t ∧ step t = .next t

/-- Evaluations do not interact, one after another on one instance or on several instances in either order (R25, R96).
That several instances are a list of states evaluated one at a time, "at once" being shown as either order, is deduced
(log entry 13), and `resp` is the response word of the spec's decision D5. -/
def Obligations.EvaluationsDoNotInteract : Prop :=
  (∀ (s : State) (ws : List RequestWord), ∃ u, answerAll s ws = some (ws.map resp, u)) ∧
  (∀ (s : State) (ws ws' : List RequestWord), List.Perm ws ws' →
    ∃ rs rs' u u', answerAll s ws = some (rs, u) ∧ answerAll s ws' = some (rs', u') ∧ List.Perm rs rs') ∧
  (∀ (ms : Instances) (j k : Nat) (a b : State), j ≠ k → ms[j]? = some a → ms[k]? = some b →
    ∃ mj mk both a' b', stepAt j ms = some mj ∧ stepAt k ms = some mk ∧
      stepAt k mj = some both ∧ stepAt j mk = some both ∧
      mj[k]? = some b ∧ mk[j]? = some a ∧
      both[j]? = some a' ∧ both[k]? = some b' ∧
      a'.response = resp a.request ∧ b'.response = resp b.request)

/-- The output ports are the functions of their own input ports, and neither depends on the other (R16, decisions D1 and
D2). -/
def Obligations.PortsAreFunctionsOfTheirInputs : Prop :=
  ∀ (s : State) (h : Half) (x : Single),
    (s.driveWidenIn h).widenOut = widen h ∧ (s.driveNarrowIn x).narrowOut = narrow x ∧
    (s.driveNarrowIn x).widenOut = s.widenOut ∧ (s.driveWidenIn h).narrowOut = s.narrowOut

/-- Every step keeps the interface settled and the response in the form its operation gives (R40, R57, R71; the fields
are the model's, log entries 1 and 2). -/
def Obligations.StepKeepsTheInterfaceSettled : Prop :=
  ∀ s t : State, Settled s ∧ ResponseForm s → step s = .next t → Settled t ∧ ResponseForm t

/-- The state after reset is settled (the values are the model's choice, log entry 3), and the output ports are the
functions of the input ports from the start (R100, decision D13). -/
def Obligations.ResetIsSettled : Prop :=
  Settled State.reset ∧ ResponseForm State.reset ∧
  State.reset.widenOut = widen State.reset.widenIn ∧ State.reset.narrowOut = narrow State.reset.narrowIn

/-! ### The data formats -/

/-- R5: the constants of the two formats. -/
def Obligations.FormatConstantsAreFixed : Prop :=
  Config.hBits = 16 ∧ Config.hExpBits = 5 ∧ Config.hFracBits = 10 ∧ Config.hBias = 15 ∧ Config.hExpMax = 0x1F ∧
  Config.sBits = 32 ∧ Config.sExpBits = 8 ∧ Config.sFracBits = 23 ∧ Config.sBias = 127 ∧ Config.sExpMax = 0xFF ∧
  Config.rebias = 112 ∧ Config.rebias = Config.sBias - Config.hBias ∧
  Config.fracShift = 13 ∧ Config.fracShift = Config.sFracBits - Config.hFracBits

/-- R30: the layout of a binary16 pattern, its number and its masks, and the bias. -/
def Obligations.HalfLayout : Prop :=
  Config.hBias = 15 ∧ ∀ h : Half,
    pack16 (sign16 h) (exp16 h) (frac16 h) = h ∧
    h.toNat = (sign16 h).toNat * 32768 + (exp16 h).toNat * 1024 + (frac16 h).toNat ∧
    (h &&& 0x8000#16).toNat = (sign16 h).toNat * 32768 ∧
    (h &&& 0x7C00#16).toNat = (exp16 h).toNat * 1024 ∧
    (h &&& 0x03FF#16).toNat = (frac16 h).toNat ∧
    (h &&& 0x7FFF#16).toNat = (exp16 h).toNat * 1024 + (frac16 h).toNat

/-- R31: the layout of a binary32 pattern and its masks, and the bias. -/
def Obligations.SingleLayout : Prop :=
  Config.sBias = 127 ∧ ∀ s : Single,
    pack32 (sign32 s) (exp32 s) (frac32 s) = s ∧
    (s &&& 0x80000000#32).toNat = (sign32 s).toNat * 2147483648 ∧
    (s &&& 0x7F800000#32).toNat = (exp32 s).toNat * 8388608 ∧
    (s &&& 0x007FFFFF#32).toNat = (frac32 s).toNat ∧
    (s &&& 0x7FFFFFFF#32).toNat = (exp32 s).toNat * 8388608 + (frac32 s).toNat

/-- R34: the classes of binary16 patterns by the fields and by the raw pattern, the finite patterns, and how many
patterns are of each class. -/
def Obligations.HalfClasses : Prop :=
  (∀ h : Half,
    ((class16 h = .zero ↔ exp16 h = 0#5 ∧ frac16 h = 0#10) ∧
     (class16 h = .subnormal ↔ exp16 h = 0#5 ∧ frac16 h ≠ 0#10) ∧
     (class16 h = .normal ↔ 1 ≤ (exp16 h).toNat ∧ (exp16 h).toNat ≤ 30) ∧
     (class16 h = .infinity ↔ exp16 h = 0x1F#5 ∧ frac16 h = 0#10) ∧
     (class16 h = .nan ↔ exp16 h = 0x1F#5 ∧ frac16 h ≠ 0#10)) ∧
    ((class16 h = .zero ↔ h &&& 0x7FFF#16 = 0x0000#16) ∧
     (class16 h = .subnormal ↔ 0x0001#16 ≤ h &&& 0x7FFF#16 ∧ h &&& 0x7FFF#16 ≤ 0x03FF#16) ∧
     (class16 h = .normal ↔ 0x0400#16 ≤ h &&& 0x7FFF#16 ∧ h &&& 0x7FFF#16 ≤ 0x7BFF#16) ∧
     (class16 h = .infinity ↔ h &&& 0x7FFF#16 = 0x7C00#16) ∧
     (class16 h = .nan ↔ h &&& 0x7FFF#16 > 0x7C00#16)) ∧
    ((class16 h).isFinite = true ↔ h &&& 0x7C00#16 ≠ 0x7C00#16) ∧
    ((class16 h).isFinite = true ↔ ¬ (class16 h = .nan ∨ class16 h = .infinity))) ∧
  Nat.count (fun n => class16 (BitVec.ofNat 16 n) = .zero) 65536 = 2 ∧
  Nat.count (fun n => class16 (BitVec.ofNat 16 n) = .subnormal) 65536 = 2046 ∧
  Nat.count (fun n => class16 (BitVec.ofNat 16 n) = .normal) 65536 = 61440 ∧
  Nat.count (fun n => class16 (BitVec.ofNat 16 n) = .infinity) 65536 = 2 ∧
  Nat.count (fun n => class16 (BitVec.ofNat 16 n) = .nan) 65536 = 2046

/-- R35 (which the spec derives): the classes of binary32 patterns by the fields and by the raw pattern, and how many
patterns are of each class. -/
def Obligations.SingleClasses : Prop :=
  (∀ s : Single,
    (class32 s = .zero ↔ exp32 s = 0#8 ∧ frac32 s = 0#23) ∧
    (class32 s = .subnormal ↔ exp32 s = 0#8 ∧ frac32 s ≠ 0#23) ∧
    (class32 s = .normal ↔ 1 ≤ (exp32 s).toNat ∧ (exp32 s).toNat ≤ 254) ∧
    (class32 s = .infinity ↔ exp32 s = 0xFF#8 ∧ frac32 s = 0#23) ∧
    (class32 s = .nan ↔ exp32 s = 0xFF#8 ∧ frac32 s ≠ 0#23) ∧
    (class32 s = .zero ↔ s &&& 0x7FFFFFFF#32 = 0#32) ∧
    (class32 s = .subnormal ↔ 1#32 ≤ s &&& 0x7FFFFFFF#32 ∧ s &&& 0x7FFFFFFF#32 ≤ 0x007FFFFF#32) ∧
    (class32 s = .normal ↔ 0x00800000#32 ≤ s &&& 0x7FFFFFFF#32 ∧ s &&& 0x7FFFFFFF#32 ≤ 0x7F7FFFFF#32) ∧
    (class32 s = .infinity ↔ s &&& 0x7FFFFFFF#32 = 0x7F800000#32) ∧
    (class32 s = .nan ↔ s &&& 0x7FFFFFFF#32 > 0x7F800000#32)) ∧
  Nat.count (fun n => class32 (BitVec.ofNat 32 n) = .zero) (2 ^ 32) = 2 ∧
  Nat.count (fun n => class32 (BitVec.ofNat 32 n) = .subnormal) (2 ^ 32) = 16777214 ∧
  Nat.count (fun n => class32 (BitVec.ofNat 32 n) = .normal) (2 ^ 32) = 4261412864 ∧
  Nat.count (fun n => class32 (BitVec.ofNat 32 n) = .infinity) (2 ^ 32) = 2 ∧
  Nat.count (fun n => class32 (BitVec.ofNat 32 n) = .nan) (2 ^ 32) = 16777214

/-- R36 (the position of the quiet bit is the spec's general knowledge G1): a NaN is quiet or signaling by its most
significant fraction bit, a signaling NaN has a payload, and the counts. -/
def Obligations.QuietAndSignalingNaNs : Prop :=
  (∀ h : Half,
    (isQuietNaN16 h = true ↔ class16 h = .nan ∧ h &&& 0x0200#16 ≠ 0#16) ∧
    (isSignalingNaN16 h = true ↔ class16 h = .nan ∧ h &&& 0x0200#16 = 0#16) ∧
    (isSignalingNaN16 h = true → payload16 h ≠ 0#9)) ∧
  (∀ s : Single,
    (isQuietNaN32 s = true ↔ class32 s = .nan ∧ s &&& 0x00400000#32 ≠ 0#32) ∧
    (isSignalingNaN32 s = true ↔ class32 s = .nan ∧ s &&& 0x00400000#32 = 0#32) ∧
    (isSignalingNaN32 s = true → payload32 s ≠ 0#22)) ∧
  Nat.count (fun n => isQuietNaN16 (BitVec.ofNat 16 n) = true) 65536 = 1024 ∧
  Nat.count (fun n => isSignalingNaN16 (BitVec.ofNat 16 n) = true) 65536 = 1022

/-! ### WIDEN -/

/-- R51: the sign bit is kept, and the other 31 bits do not depend on it. -/
def Obligations.WidenKeepsTheSign : Prop :=
  ∀ h : Half, (widen h).getLsbD 31 = h.getLsbD 15 ∧ widen (h ^^^ 0x8000#16) = widen h ^^^ 0x80000000#32

/-- R52: infinity. -/
def Obligations.WidenOfInfinity : Prop :=
  (∀ h : Half, exp16 h = 0x1F#5 → frac16 h = 0#10 → exp32 (widen h) = 0xFF#8 ∧ frac32 (widen h) = 0#23) ∧
  widen 0x7C00#16 = 0x7F800000#32 ∧ widen 0xFC00#16 = 0xFF800000#32

/-- R53: a NaN keeps its sign, its quiet bit and its payload, and different NaNs stay different (that a signaling NaN is
not quieted is the spec's decision D7, log entry 6). -/
def Obligations.WidenOfNaN : Prop :=
  (∀ h : Half, exp16 h = 0x1F#5 → frac16 h ≠ 0#10 →
    class32 (widen h) = .nan ∧ sign32 (widen h) = sign16 h ∧ exp32 (widen h) = 0xFF#8 ∧
    (widen h).extractLsb' 13 10 = frac16 h ∧ (widen h).extractLsb' 0 13 = 0#13 ∧
    isQuietNaN32 (widen h) = isQuietNaN16 h ∧ isSignalingNaN32 (widen h) = isSignalingNaN16 h ∧
    (widen h).extractLsb' 13 9 = payload16 h) ∧
  (∀ h h' : Half, class16 h = .nan → class16 h' = .nan → h ≠ h' → widen h ≠ widen h')

/-- R54: zero gives the zero of the same sign. -/
def Obligations.WidenOfZero : Prop :=
  (∀ h : Half, exp16 h = 0#5 → frac16 h = 0#10 →
    widen h = pack32 (sign16 h) 0#8 0#23) ∧
  widen 0x0000#16 = 0x00000000#32 ∧ widen 0x8000#16 = 0x80000000#32

/-- R55 (the counter's start is the spec's decision D11): the loop form and the closed form of a subnormal agree; the
loop ends with bit 10 set after `10 - p` turns; the exponent field is `103 + p`; the low `13 + (10 - p)` fraction bits
are zero; and the value is that of the operand, which R55 marks as derived from R32 and R33 and which rests on their
formulas (log entry 16). -/
def Obligations.WidenSubnormalLoopIsTheClosedForm : Prop :=
  ∀ h : Half, exp16 h = 0#5 → frac16 h ≠ 0#10 →
    let f := (frac16 h).toNat
    let p := msbIndex f
    p ≤ 9 ∧ 2 ^ p ≤ f ∧ f < 2 ^ (p + 1) ∧
    widenSubLoop (frac16 h) = widenSub (frac16 h) ∧
    widen h = widenSign h ||| widenSubLoop (frac16 h) ∧
    normaliseLoop 10 f 1 = (f * 2 ^ (10 - p), (1 : ℤ) - (10 - p : ℕ)) ∧
    (exp32 (widen h)).toNat = 103 + p ∧
    (frac32 (widen h)).toNat = (f - 2 ^ p) * 2 ^ (23 - p) ∧
    (frac32 (widen h)).toNat % 2 ^ (13 + (10 - p)) = 0 ∧
    val32 (widen h) = val16 h

/-- A normal number has its exponent field rebiased by 112 and its fraction left-aligned, and the result is a binary32
normal number (R56); that its value is the same is what R56 marks as derived from R32 and R33, and rests on their
formulas (log entry 16). -/
def Obligations.WidenOfNormal : Prop :=
  ∀ h : Half, 1 ≤ (exp16 h).toNat → (exp16 h).toNat ≤ 30 →
    (exp32 (widen h)).toNat = (exp16 h).toNat + 112 ∧
    113 ≤ (exp32 (widen h)).toNat ∧ (exp32 (widen h)).toNat ≤ 142 ∧
    class32 (widen h) = .normal ∧ sign32 (widen h) = sign16 h ∧
    (widen h).extractLsb' 13 10 = frac16 h ∧ (widen h).extractLsb' 0 13 = 0#13 ∧
    val32 (widen h) = val16 h

/-- R57 items 1 to 4 (which the spec derives): the low thirteen bits, the class, the exponent range, injectivity. -/
def Obligations.WidenResultProperties : Prop :=
  (∀ h : Half,
    (widen h).extractLsb' 0 13 = 0#13 ∧
    (class16 h = .zero → class32 (widen h) = .zero) ∧
    (class16 h = .subnormal → class32 (widen h) = .normal) ∧
    (class16 h = .normal → class32 (widen h) = .normal) ∧
    (class16 h = .infinity → class32 (widen h) = .infinity) ∧
    (class16 h = .nan → class32 (widen h) = .nan) ∧
    class32 (widen h) ≠ .subnormal ∧
    ((class16 h).isFinite = true → class16 h ≠ .zero →
      103 ≤ (exp32 (widen h)).toNat ∧ (exp32 (widen h)).toNat ≤ 142)) ∧
  Function.Injective widen

/-- R57 item 5 (which the spec derives): WIDEN preserves the order of values, by the formulas of R32 and R33 (log
entry 16). -/
def Obligations.WidenPreservesTheOrder : Prop :=
  ∀ a b : Half, class16 a ≠ .nan → class16 b ≠ .nan →
    (Value.lt (val16 a) (val16 b) ↔ Value.lt (val32 (widen a)) (val32 (widen b)))

/-- R80 (which the spec derives): WIDEN is exact on every pattern that is not a NaN, by the value formulas of R32 and R33
(log entry 16), and carries sign, quiet bit and payload of a NaN (decision D7, log entry 6). -/
def Obligations.WidenIsExact : Prop :=
  (∀ h : Half, class16 h ≠ .nan → val32 (widen h) = val16 h) ∧
  (∀ h : Half, class16 h = .nan →
    class32 (widen h) = .nan ∧ (widen h).getLsbD 31 = h.getLsbD 15 ∧
    (widen h).getLsbD 22 = h.getLsbD 9 ∧ payload32 (widen h) = payload16 h ++ 0#13)

/-! ### NARROW -/

/-- R61: the sign bit is kept, and the other 15 bits do not depend on it (that a NaN keeps its sign is the spec's
decision D9, log entry 6). -/
def Obligations.NarrowKeepsTheSign : Prop :=
  ∀ x : Single, (narrow x).getLsbD 15 = x.getLsbD 31 ∧ narrow (x ^^^ 0x80000000#32) = narrow x ^^^ 0x8000#16

/-- R62: infinity. -/
def Obligations.NarrowOfInfinity : Prop :=
  (∀ x : Single, exp32 x = 0xFF#8 → frac32 x = 0#23 → narrow x = pack16 (sign32 x) 0x1F#5 0#10) ∧
  narrow 0x7F800000#32 = 0x7C00#16 ∧ narrow 0xFF800000#32 = 0xFC00#16

/-- R63: a NaN gives a quiet NaN with the top payload bits (the forced bit and the payload mapping are the spec's
decisions D8 and D10, the sign is D9, log entry 6). -/
def Obligations.NarrowOfNaN : Prop :=
  ∀ x : Single, exp32 x = 0xFF#8 → frac32 x ≠ 0#23 →
    isQuietNaN16 (narrow x) = true ∧ isSignalingNaN16 (narrow x) = false ∧
    exp16 (narrow x) = 0x1F#5 ∧ (narrow x).getLsbD 9 = true ∧
    payload16 (narrow x) = (frac32 x).extractLsb' 13 9 ∧ sign16 (narrow x) = sign32 x

/-- R93 (which the spec derives): the test for the all-ones exponent takes precedence over the overflow test. -/
def Obligations.AllOnesExponentTakesPrecedence : Prop :=
  ∀ x : Single, exp32 x = 0xFF#8 →
    halfExponent x = 143 ∧ halfExponent x ≥ 31 ∧
    (frac32 x ≠ 0#23 → class16 (narrow x) = .nan) ∧ (frac32 x = 0#23 → class16 (narrow x) = .infinity)

/-- Overflow gives the infinity of the same sign, whatever the fraction (R64); the clauses on the magnitude rest on the
value formula of R33 (log entry 16). -/
def Obligations.NarrowOverflowGivesInfinity : Prop :=
  ∀ x : Single,
    (((exp32 x).toNat ≠ 0xFF ∧ halfExponent x ≥ 31) ↔ (143 ≤ (exp32 x).toNat ∧ (exp32 x).toNat ≤ 254)) ∧
    ((exp32 x).toNat ≠ 0xFF → halfExponent x ≥ 31 →
      narrow x = pack16 (sign32 x) 0x1F#5 0#10 ∧ ∃ n v, val32 x = .finite n v ∧ 65536 ≤ v) ∧
    (∀ n v, val32 x = .finite n v → 65536 ≤ v → (exp32 x).toNat ≠ 0xFF ∧ halfExponent x ≥ 31)

/-- Below 2^(-25) the result is the zero of the same sign, whatever the fraction; the case takes every binary32 zero and
subnormal; the operand of magnitude exactly 2^(-25) is not in it and gives zero too (R65). The clause on the magnitude
rests on the value formula of R33 (log entry 16). -/
def Obligations.NarrowUnderflowGivesZero : Prop :=
  (∀ x : Single,
    (halfExponent x < -10 ↔ (exp32 x).toNat ≤ 101) ∧
    (halfExponent x < -10 → narrow x = pack16 (sign32 x) 0#5 0#10) ∧
    (halfExponent x < -10 ↔ ∃ n v, val32 x = .finite n v ∧ v < (2 : ℚ) ^ (-25 : ℤ)) ∧
    (class32 x = .zero → halfExponent x < -10) ∧ (class32 x = .subnormal → halfExponent x < -10)) ∧
  halfExponent 0x33000000#32 = -10 ∧ narrow 0x33000000#32 = 0x0000#16

/-- R66: the rounding test is round-to-nearest with ties to even, it has the one-expression form, and it differs from
the source's literal mask exactly on ties whose kept value is even. -/
def Obligations.RoundUpIsNearestTiesToEven : Prop :=
  ∀ v sh : Nat, 1 ≤ sh →
    (roundUp v sh = true ↔
      2 ^ (sh - 1) < v % 2 ^ sh ∨ (v % 2 ^ sh = 2 ^ (sh - 1) ∧ (v >>> sh) % 2 = 1)) ∧
    (roundUp v sh = true ↔ v &&& 2 ^ (sh - 1) ≠ 0 ∧ v &&& (3 * 2 ^ (sh - 1) - 1) ≠ 0) ∧
    3 * 2 ^ (sh - 1) - 1 = (2 ^ (sh - 1) <<< 1) ||| (2 ^ (sh - 1) - 1) ∧
    ((¬ (roundUp v sh = true ↔ v &&& 2 ^ (sh - 1) ≠ 0 ∧ v &&& (2 * 2 ^ (sh - 1) - 1) ≠ 0)) ↔
      v % 2 ^ sh = 2 ^ (sh - 1) ∧ (v >>> sh) % 2 = 0)

/-- R67 (that a rounded fraction of 0x400 carries into the exponent field is the spec's decision D12): the subnormal
range. -/
def Obligations.NarrowSubnormalRange : Prop :=
  ∀ x : Single, -10 ≤ halfExponent x → halfExponent x ≤ 0 →
    let sig := 2 ^ 23 + (frac32 x).toNat
    let sh := (14 - halfExponent x).toNat
    let q := sig / 2 ^ sh
    let r := sig % 2 ^ sh
    let m := if 2 ^ (sh - 1) < r ∨ (r = 2 ^ (sh - 1) ∧ q % 2 = 1) then q + 1 else q
    102 ≤ (exp32 x).toNat ∧ (exp32 x).toNat ≤ 112 ∧ 14 ≤ sh ∧ sh ≤ 24 ∧ q ≤ 0x3FF ∧ m ≤ 0x400 ∧
    narrow x = narrowSign x ||| BitVec.ofNat 16 m ∧
    (narrow x).toNat = (sign32 x).toNat * 32768 + m ∧
    (halfExponent x = -10 → m = if frac32 x = 0#23 then 0 else 1)

/-- R68: the normal range. -/
def Obligations.NarrowNormalRange : Prop :=
  ∀ x : Single, 1 ≤ halfExponent x → halfExponent x ≤ 30 →
    let F := frac32 x
    let up : Bool := F.getLsbD 12 && (F.extractLsb' 0 12 != 0#12 || F.getLsbD 13)
    113 ≤ (exp32 x).toNat ∧ (exp32 x).toNat ≤ 142 ∧
    (up = true ↔ F.toNat &&& 0x1000 ≠ 0 ∧ F.toNat &&& 0x2FFF ≠ 0) ∧
    roundUp F.toNat 13 = up ∧ roundUp (0x800000 ||| F.toNat) 13 = up ∧
    (narrow x).toNat =
      (sign32 x).toNat * 32768 + (halfExponent x).toNat * 1024 + F.toNat / 2 ^ 13 + (if up then 1 else 0)

/-- R69 (which the spec derives): the three carries out of the fraction, and no carry into the sign; a rounded result is
never a NaN. -/
def Obligations.CarriesOutOfTheFraction : Prop :=
  (∀ x : Single, 1 ≤ halfExponent x → halfExponent x ≤ 29 → (frac32 x).extractLsb' 13 10 = 0x3FF#10 →
    roundUp (frac32 x).toNat 13 = true →
    (exp16 (narrow x)).toNat = (halfExponent x).toNat + 1 ∧ frac16 (narrow x) = 0#10) ∧
  (∀ x : Single, halfExponent x = 0 → (0x800000 ||| (frac32 x).toNat) >>> 14 = 0x3FF →
    roundUp (0x800000 ||| (frac32 x).toNat) 14 = true → narrow x = pack16 (sign32 x) 1#5 0#10) ∧
  (∀ x : Single, halfExponent x = 30 → (frac32 x).extractLsb' 13 10 = 0x3FF#10 →
    roundUp (frac32 x).toNat 13 = true → narrow x = pack16 (sign32 x) 0x1F#5 0#10) ∧
  (∀ x : Single, -10 ≤ halfExponent x → halfExponent x ≤ 30 →
    mag16 (narrow x) ≤ 0x7C00#16 ∧ class16 (narrow x) ≠ .nan ∧ (narrow x).getLsbD 15 = x.getLsbD 31)

/-- The edge-case policy table of R70, value by value, as responses to requests (the thresholds are R71's, which the
spec derives, in values by the formula of R33, log entry 16; the NaN row rests on the spec's decisions D8 to D10, log
entry 6). -/
def Obligations.EdgeCasePolicyOfRequests : Prop :=
  ∀ (x : Single) (s : State), ∃ t, exec (.narrow x) s = .next t ∧
    (class32 x = .zero → t.response.extractLsb' 0 16 = pack16 (sign32 x) 0#5 0#10) ∧
    (∀ n v, val32 x = .finite n v → 65520 ≤ v → t.response.extractLsb' 0 16 = pack16 (sign32 x) 0x1F#5 0#10) ∧
    (∀ n v, val32 x = .finite n v → v ≤ (2 : ℚ) ^ (-25 : ℤ) →
      t.response.extractLsb' 0 16 = pack16 (sign32 x) 0#5 0#10) ∧
    (class32 x = .nan →
      t.response.extractLsb' 0 16 = pack16 (sign32 x) 0x1F#5 (1#1 ++ (frac32 x).extractLsb' 13 9)) ∧
    (class32 x = .infinity → t.response.extractLsb' 0 16 = pack16 (sign32 x) 0x1F#5 0#10)

/-- R71 item 1 (which the spec derives): the class of the result by class and magnitude of the operand, by the value
formula of R33 (log entry 16). -/
def Obligations.NarrowResultClass : Prop :=
  ∀ x : Single,
    (class32 x = .zero ∨ class32 x = .subnormal → class16 (narrow x) = .zero) ∧
    (∀ n v, class32 x = .normal → val32 x = .finite n v →
      (v ≤ (2 : ℚ) ^ (-25 : ℤ) → class16 (narrow x) = .zero) ∧
      ((2 : ℚ) ^ (-25 : ℤ) < v → v < (1023.5 : ℚ) * 2 ^ (-24 : ℤ) → class16 (narrow x) = .subnormal) ∧
      ((1023.5 : ℚ) * 2 ^ (-24 : ℤ) ≤ v → v < 65520 → class16 (narrow x) = .normal) ∧
      (65520 ≤ v → class16 (narrow x) = .infinity)) ∧
    (class32 x = .infinity → class16 (narrow x) = .infinity) ∧
    (class32 x = .nan → isQuietNaN16 (narrow x) = true)

/-- R71 item 2 (which the spec derives): the results are all patterns but the signaling NaNs. -/
def Obligations.NarrowIsOntoAllButSignalingNaNs : Prop :=
  ∀ h : Half, (∃ x : Single, narrow x = h) ↔ isSignalingNaN16 h = false

/-- R71 item 4 (which the spec derives): the boundary operands, for both signs. -/
def Obligations.NarrowThresholds : Prop :=
  (∀ x : Single,
    (mag16 (narrow x) = 0x0000#16 ↔ mag32 x ≤ 0x33000000#32) ∧
    (mag16 (narrow x) ≤ 0x03FF#16 ↔ mag32 x ≤ 0x387FDFFF#32) ∧
    (mag16 (narrow x) ≤ 0x7BFF#16 ↔ mag32 x ≤ 0x477FEFFF#32) ∧
    (mag16 (narrow x) ≤ 0x7C00#16 ↔ mag32 x ≤ 0x7F800000#32)) ∧
  narrow 0x33000001#32 = 0x0001#16 ∧
  narrow 0x387FDFFF#32 = 0x03FF#16 ∧ narrow 0x387FE000#32 = 0x0400#16 ∧
  narrow 0x477FEFFF#32 = 0x7BFF#16 ∧ narrow 0x477FF000#32 = 0x7C00#16

/-! ### Laws -/

/-- R83 (which the spec derives): NARROW is round-to-nearest, ties to even, on the value of every operand that is not a
NaN, by the value formulas of R32 and R33 (log entry 16). -/
def Obligations.NarrowIsRoundToNearestEven : Prop :=
  ∀ x : Single, class32 x ≠ .nan →
    (narrow x).getLsbD 15 = x.getLsbD 31 ∧
    ((∃ n, val32 x = .infinity n) → mag16 (narrow x) = 0x7C00#16) ∧
    (∀ n v, val32 x = .finite n v →
      (65520 ≤ v → mag16 (narrow x) = 0x7C00#16) ∧
      (v < 65520 → IsNearestEven v (mag16 (narrow x)).toNat))

/-- The magnitude patterns of R83 (which the spec derives): their values are those of R32, they rise strictly, and the
gap between neighbours, with the virtual value 65536 at the end. They rest on the formula of R32 (log entry 16). -/
def Obligations.GapsOfHalfMagnitudes : Prop :=
  (∀ h : Half, (class16 h).isFinite = true → val16 h = .finite (h.getLsbD 15) (magnitudeValue (mag16 h).toNat)) ∧
  (∀ k : Nat, k < 0x7C00 →
    magnitudeValue k < magnitudeValue (k + 1) ∧
    magnitudeValue (k + 1) - magnitudeValue k = (2 : ℚ) ^ (((max (k / 1024) 1 : ℕ) : ℤ) - 25)) ∧
  magnitudeValue 0x7C00 = 65536

/-- R85 (which the spec derives): NARROW is monotone, on values (by the formulas of R32 and R33, log entry 16) and on
magnitude patterns. -/
def Obligations.NarrowIsMonotone : Prop :=
  (∀ a b : Single, class32 a ≠ .nan → class32 b ≠ .nan →
    Value.le (val32 a) (val32 b) → Value.le (val16 (narrow a)) (val16 (narrow b))) ∧
  (∀ a b : Single, mag32 a ≤ mag32 b → mag32 b ≤ 0x7F800000#32 → mag16 (narrow a) ≤ mag16 (narrow b))

/-- R81 and R82 (which the spec derives): the round trip gives the pattern back, with the quiet bit set if it is a NaN;
and it does so too if WIDEN quiets, the alternative the source allows (U1, decision D7). -/
def Obligations.RoundTripOfHalf : Prop :=
  (∀ h : Half, isSignalingNaN16 h = false → narrow (widen h) = h) ∧
  (∀ h : Half, isSignalingNaN16 h = true → narrow (widen h) = h ||| 0x0200#16) ∧
  (∀ h : Half, class16 h = .nan → narrow (widen h ||| 0x00400000#32) = narrow (widen h))

/-- R86 (which the spec derives): the composite is idempotent, and its fixed points. -/
def Obligations.RoundingIsIdempotent : Prop :=
  ∀ x : Single,
    narrow (widen (narrow x)) = narrow x ∧
    widen (narrow (widen (narrow x))) = widen (narrow x) ∧
    (widen (narrow x) = x ↔ ∃ h : Half, isSignalingNaN16 h = false ∧ widen h = x) ∧
    (widen (narrow x) = x ↔
      x.extractLsb' 0 13 = 0#13 ∧
      (class32 x = .zero ∨ class32 x = .infinity ∨ (class32 x = .nan ∧ x.getLsbD 22 = true) ∨
       (113 ≤ (exp32 x).toNat ∧ (exp32 x).toNat ≤ 142) ∨
       (103 ≤ (exp32 x).toNat ∧ (exp32 x).toNat ≤ 112 ∧
        (frac32 x).toNat % 2 ^ (13 + (113 - (exp32 x).toNat)) = 0)))

/-- R84: the three boundary examples, with the results the rules give. -/
def Obligations.BoundaryExamples : Prop :=
  narrow 0x477FF000#32 = 0x7C00#16 ∧
  narrow 0x337FFAE5#32 = 0x0001#16 ∧
  (∀ x : Single, x ≤ 0x33000000#32 → narrow x = 0x0000#16) ∧
  narrow 0x387FDA40#32 = 0x03FF#16 ∧
  narrow 0x38800000#32 = 0x0400#16 ∧
  (∀ x : Single, 0x387FE000#32 ≤ x → x ≤ 0x38801000#32 → narrow x = 0x0400#16)

/-- The conditions a floating-point unit would signal are in the response and nowhere else (R91; the meaning of
"inexact" on an overflowing operand is deduced, log entry 9; the values are by the formulas of R32 and R33, log entry 16;
the NaN rows rest on the spec's decisions D7 to D10, log entry 6; that the request and the other input port are left alone
is the model's choice, log entries 2 and 4). -/
def Obligations.ConditionsShowInTheResponseOnly : Prop :=
  (∀ (x : Single) (s : State), ∃ t, exec (.narrow x) s = .next t ∧ t.request = s.request ∧ t.widenIn = s.widenIn ∧
    (narrowOverflows x = true ↔ ∃ n v, val32 x = .finite n v ∧ 65520 ≤ v) ∧
    (narrowOverflows x = true → t.response.extractLsb' 0 16 = pack16 (sign32 x) 0x1F#5 0#10) ∧
    (narrowUnderflows x = true → exp16 (t.response.extractLsb' 0 16) = 0#5 ∧
      sign16 (t.response.extractLsb' 0 16) = sign32 x) ∧
    (narrowInexact x = true → narrowOverflows x = false →
      ∃ n v, val32 x = .finite n v ∧ v < 65520 ∧ IsNearestEven v (mag16 (t.response.extractLsb' 0 16)).toNat ∧
        val16 (t.response.extractLsb' 0 16) ≠ val32 x) ∧
    (narrowInvalid x = true → isQuietNaN16 (t.response.extractLsb' 0 16) = true ∧
      payload16 (t.response.extractLsb' 0 16) = (frac32 x).extractLsb' 13 9)) ∧
  (∀ (g : BitVec 16) (h : Half) (s : State), ∃ t, exec (.widen g h) s = .next t ∧ t.request = s.request ∧
    t.narrowIn = s.narrowIn ∧
    (widenInvalid h = true → isSignalingNaN32 t.response = true ∧ t.response.extractLsb' 13 9 = payload16 h))

/-- Chaining one output to the other input gives the composition, and the stable values of the two chains are the
patterns that are not signaling NaNs (R103, which the spec derives). -/
def Obligations.ChainingGivesTheComposition : Prop :=
  (∀ s : State, s.chainWidenToNarrow.narrowOut = narrow (widen s.widenIn)) ∧
  (∀ s : State, s.chainNarrowToWiden.widenOut = widen (narrow s.narrowIn)) ∧
  (∀ s : State, s.chainWidenToNarrow.chainNarrowToWiden.widenIn = s.widenIn ↔ isSignalingNaN16 s.widenIn = false)

/-! ### Programs and their text -/

/-- What the host gets by carrying out a program on the block, one step a line, is the program's meaning (R43, the
spec's decision D18), from any state of the interface. That a program without a meaning stops with an error of the
host's assembler, the same in both, is the model's choice (log entry 8), as is the step a line (log entry 4). -/
def Obligations.ProgramRunIsItsMeaning : Prop :=
  ∀ (s : State) (env : Env) (p : Program),
    (∀ e, meaningFrom env p = .error e → runFrom s env p = .error e) ∧
    (∀ rs final, meaningFrom env p = .ok (rs, final) → ∃ t, runFrom s env p = .ok (rs, final, t))

/-- A program whose operands name earlier lines of the other operation and whose names are bound once has a meaning,
with one response a line, and only such a program has one (R42, R43, the spec's decisions D6 and D18; log entry 8). -/
def Obligations.WellFormedProgramsHaveAMeaning : Prop :=
  ∀ (env : Env) (p : Program),
    (scopedFrom (envScope env) p = true ↔ ∃ rs final, meaningFrom env p = .ok (rs, final)) ∧
    (∀ rs final, meaningFrom env p = .ok (rs, final) → rs.length = p.length)

/-- Two neighbouring lines of which the second does not name the first may be evaluated in either order (R43, the spec's
decision D18). -/
def Obligations.IndependentLinesMayBeSwapped : Prop :=
  ∀ (env : Env) (a b : Line) (rest : Program) (ra rb : ResponseWord) (rs : List ResponseWord) (final : Env),
    (∀ n, lineOperandName b.op = some n → a.name ≠ some n) →
    meaningFrom env (a :: b :: rest) = .ok (ra :: rb :: rs, final) →
    ∃ final', meaningFrom env (b :: a :: rest) = .ok (rb :: ra :: rs, final') ∧
      ∀ n, lookupName n final' = lookupName n final

/-- Assembly of a line of literals (R42, the spec's decision D6): the ignored bits are written as zero. -/
def Obligations.AssembledLiteralsGiveTheirRequest : Prop :=
  ∀ env : Env,
    (∀ v : Half, ∃ w, assemble env (.widen (.literal v)) = .ok w ∧
      w.getLsbD 32 = false ∧ w.extractLsb' 16 16 = 0#16 ∧ w.extractLsb' 0 16 = v) ∧
    (∀ v : Single, ∃ w, assemble env (.narrow (.literal v)) = .ok w ∧
      w.getLsbD 32 = true ∧ w.extractLsb' 0 32 = v)

/-- The text of a line reads back as the line, with every literal and every name it may hold (R42, the spec's decision
D6; log entry 7). -/
def Obligations.LineTextReadsBack : Prop :=
  ∀ l : Line, lineNamesOk l = true → parseLine (showLine l) = some (some l)
end

