-- ==== Sys2Proof/Laws/State.lean ====
section
/-!
SUPPORT. One lemma for each field after each update of the interface, so that no proof unfolds a record update.
-/

namespace Sys2Proof.Machine

@[simp] theorem driveWidenIn_widenIn (s : State) (h : Half) : (s.driveWidenIn h).widenIn = h := rfl
@[simp] theorem driveWidenIn_narrowIn (s : State) (h : Half) : (s.driveWidenIn h).narrowIn = s.narrowIn := rfl
@[simp] theorem driveWidenIn_request (s : State) (h : Half) : (s.driveWidenIn h).request = s.request := rfl
@[simp] theorem driveWidenIn_response (s : State) (h : Half) : (s.driveWidenIn h).response = s.response := rfl

@[simp] theorem driveNarrowIn_widenIn (s : State) (x : Single) : (s.driveNarrowIn x).widenIn = s.widenIn := rfl
@[simp] theorem driveNarrowIn_narrowIn (s : State) (x : Single) : (s.driveNarrowIn x).narrowIn = x := rfl
@[simp] theorem driveNarrowIn_request (s : State) (x : Single) : (s.driveNarrowIn x).request = s.request := rfl
@[simp] theorem driveNarrowIn_response (s : State) (x : Single) : (s.driveNarrowIn x).response = s.response := rfl

@[simp] theorem present_widenIn (s : State) (w : RequestWord) : (s.present w).widenIn = s.widenIn := rfl
@[simp] theorem present_narrowIn (s : State) (w : RequestWord) : (s.present w).narrowIn = s.narrowIn := rfl
@[simp] theorem present_request (s : State) (w : RequestWord) : (s.present w).request = w := rfl
@[simp] theorem present_response (s : State) (w : RequestWord) : (s.present w).response = s.response := rfl
@[simp] theorem present_fetch (s : State) (w : RequestWord) : (s.present w).fetch = w := rfl

@[simp] theorem respond_widenIn (s : State) (r : ResponseWord) : (s.respond r).widenIn = s.widenIn := rfl
@[simp] theorem respond_narrowIn (s : State) (r : ResponseWord) : (s.respond r).narrowIn = s.narrowIn := rfl
@[simp] theorem respond_request (s : State) (r : ResponseWord) : (s.respond r).request = s.request := rfl
@[simp] theorem respond_response (s : State) (r : ResponseWord) : (s.respond r).response = r := rfl

/-- The presented word has the number's 33 lowest bits (log entry 17). -/
@[simp] theorem withFetchWord_request (s : State) (nbits w : Nat) :
    (s.withFetchWord nbits w).request = BitVec.ofNat 33 w := rfl
@[simp] theorem withFetchWord_widenIn (s : State) (nbits w : Nat) : (s.withFetchWord nbits w).widenIn = s.widenIn := rfl
@[simp] theorem withFetchWord_narrowIn (s : State) (nbits w : Nat) :
    (s.withFetchWord nbits w).narrowIn = s.narrowIn := rfl
@[simp] theorem withFetchWord_response (s : State) (nbits w : Nat) :
    (s.withFetchWord nbits w).response = s.response := rfl

theorem widenOut_eq (s : State) : s.widenOut = widen s.widenIn := rfl
theorem narrowOut_eq (s : State) : s.narrowOut = narrow s.narrowIn := rfl

end Sys2Proof.Machine
end

