-- ==== Sys2Proof/Laws/Ops.lean ====
section
/-!
SUPPORT. For each shared operation, one lemma that says everything it does, and the numbers of the fields of a pattern;
later proofs cite these and unfold nothing.
-/

namespace Sys2Proof.Machine

/-! ### What an evaluation does -/

theorem execWiden_eq (h : Half) (s : State) :
    execWiden h s = .next ⟨h, s.narrowIn, s.request, widen h⟩ := rfl

theorem execNarrow_eq (x : Single) (s : State) :
    execNarrow x s = .next ⟨s.widenIn, x, s.request, (narrow x).setWidth 32⟩ := rfl

/-- Everything a step can do: one of the two evaluations, selected by the `op` field, on the operand of the request. -/
theorem step_cases {s t : State} (hs : step s = .next t) :
    (opField s.request = 0#1 ∧
      t = ⟨(dataField s.request).extractLsb' 0 16, s.narrowIn, s.request,
           widen ((dataField s.request).extractLsb' 0 16)⟩) ∨
    (opField s.request ≠ 0#1 ∧
      t = ⟨s.widenIn, dataField s.request, s.request, (narrow (dataField s.request)).setWidth 32⟩) := by
  unfold step decode State.fetch at hs
  split at hs
  · next hop => exact .inl ⟨hop, by simpa [exec, execWiden_eq] using hs.symm⟩
  · next hop => exact .inr ⟨hop, by simpa [exec, execNarrow_eq] using hs.symm⟩

/-- The two slices of the request word that the decoder takes are those R40 names. -/
theorem dataField_operand16 (w : RequestWord) : (dataField w).extractLsb' 0 16 = w.extractLsb' 0 16 := by
  apply BitVec.eq_of_getLsbD_eq
  intro i hi
  simp [dataField, hi]

theorem opField_eq_zero_iff (w : RequestWord) : opField w = 0#1 ↔ w.getLsbD 32 = false := by
  constructor
  · intro h
    have := congrArg (fun v : BitVec 1 => v.getLsbD 0) h
    simpa [opField] using this
  · intro h
    apply BitVec.eq_of_getLsbD_eq
    intro i hi
    have : i = 0 := by omega
    subst this
    simpa [opField] using h

/-! ### The numbers of the fields -/

theorem sign16_toNat (h : Half) : (sign16 h).toNat = h.toNat / 2 ^ 15 := by
  simp only [sign16, BitVec.extractLsb'_toNat, Nat.shiftRight_eq_div_pow]
  have := h.isLt
  omega

theorem exp16_toNat (h : Half) : (exp16 h).toNat = h.toNat / 2 ^ 10 % 2 ^ 5 := by
  simp only [exp16, BitVec.extractLsb'_toNat, Nat.shiftRight_eq_div_pow]

theorem frac16_toNat (h : Half) : (frac16 h).toNat = h.toNat % 2 ^ 10 := by
  simp only [frac16, BitVec.extractLsb'_toNat, Nat.shiftRight_zero]

theorem sign32_toNat (s : Single) : (sign32 s).toNat = s.toNat / 2 ^ 31 := by
  simp only [sign32, BitVec.extractLsb'_toNat, Nat.shiftRight_eq_div_pow]
  have := s.isLt
  omega

theorem exp32_toNat (s : Single) : (exp32 s).toNat = s.toNat / 2 ^ 23 % 2 ^ 8 := by
  simp only [exp32, BitVec.extractLsb'_toNat, Nat.shiftRight_eq_div_pow]

theorem frac32_toNat (s : Single) : (frac32 s).toNat = s.toNat % 2 ^ 23 := by
  simp only [frac32, BitVec.extractLsb'_toNat, Nat.shiftRight_zero]

/-! ### The classes by the fields -/

theorem classOfFields_zero_iff {m e f : Nat} : classOfFields m e f = .zero ↔ e = 0 ∧ f = 0 := by
  unfold classOfFields; split_ifs <;> simp_all

theorem classOfFields_subnormal_iff {m e f : Nat} : classOfFields m e f = .subnormal ↔ e = 0 ∧ f ≠ 0 := by
  unfold classOfFields; split_ifs <;> simp_all

theorem classOfFields_normal_iff {m e f : Nat} : classOfFields m e f = .normal ↔ e ≠ 0 ∧ e ≠ m := by
  unfold classOfFields; split_ifs <;> simp_all

theorem classOfFields_infinity_iff {m e f : Nat} (hm : m ≠ 0) :
    classOfFields m e f = .infinity ↔ e = m ∧ f = 0 := by
  unfold classOfFields; split_ifs
  all_goals simp_all
  all_goals omega

theorem classOfFields_nan_iff {m e f : Nat} (hm : m ≠ 0) : classOfFields m e f = .nan ↔ e = m ∧ f ≠ 0 := by
  unfold classOfFields; split_ifs
  all_goals simp_all
  all_goals omega

/-! ### The half_exponent and the normalisation loop -/

theorem halfExponent_eq (s : Single) : halfExponent s = ((exp32 s).toNat : Int) - 112 := rfl

/-- `he` stays in the range R60 gives, for every operand. -/
theorem halfExponent_range (s : Single) : -112 ≤ halfExponent s ∧ halfExponent s ≤ 143 := by
  have := (exp32 s).isLt
  rw [halfExponent_eq]
  omega

theorem normaliseLoop_done {fuel m : Nat} {ec : Int} (h : m &&& 0x400 ≠ 0) :
    normaliseLoop fuel m ec = (m, ec) := by
  cases fuel <;> simp [normaliseLoop, h]

theorem normaliseLoop_turn {fuel m : Nat} {ec : Int} (h : m &&& 0x400 = 0) :
    normaliseLoop (fuel + 1) m ec = normaliseLoop fuel (m <<< 1) (ec - 1) := by
  simp [normaliseLoop, h]

/-! ### The value of a pattern by its class -/

theorem val32_of_normal {s : Single} (h : class32 s = .normal) :
    val32 s = .finite (s.getLsbD 31)
      ((2 : ℚ) ^ (((exp32 s).toNat : ℤ) - 127) * (1 + ((frac32 s).toNat : ℚ) / 2 ^ 23)) := by
  simp only [val32, h]

theorem val32_of_zero {s : Single} (h : class32 s = .zero) : val32 s = .finite (s.getLsbD 31) 0 := by
  simp only [val32, h]

theorem val32_of_subnormal {s : Single} (h : class32 s = .subnormal) :
    val32 s = .finite (s.getLsbD 31) (((frac32 s).toNat : ℚ) * (2 : ℚ) ^ (-149 : ℤ)) := by
  simp only [val32, h]

theorem val32_of_infinity {s : Single} (h : class32 s = .infinity) : val32 s = .infinity (s.getLsbD 31) := by
  simp only [val32, h]

theorem val16_of_normal {h : Half} (hc : class16 h = .normal) :
    val16 h = .finite (h.getLsbD 15)
      ((2 : ℚ) ^ (((exp16 h).toNat : ℤ) - 15) * (1 + ((frac16 h).toNat : ℚ) / 1024)) := by
  simp only [val16, hc]

theorem val16_of_subnormal {h : Half} (hc : class16 h = .subnormal) :
    val16 h = .finite (h.getLsbD 15) ((2 : ℚ) ^ (-14 : ℤ) * (((frac16 h).toNat : ℚ) / 1024)) := by
  simp only [val16, hc]

end Sys2Proof.Machine
end

