-- ==== Sys2Proof/Laws/PerInstr.lean ====
section
/-!
SUPPORT. Facts about every instruction as data, one lemma for each constructor.
-/

namespace Sys2Proof.Laws.TableRow

/-- The request word of an instruction matches its own row of the opcode map (spec/30_encoding.md, the map under
R40). -/
def Statement (i : Instr) : Prop := encode i &&& tableMask = tableMatch i

theorem row_of_op_bit {w : RequestWord} {b : Bool} (hb : w.getLsbD 32 = b) :
    w &&& tableMask = if b then tableMask else 0#33 := by
  subst hb
  apply BitVec.eq_of_getLsbD_eq
  intro i hi
  have hm : tableMask.getLsbD i = decide (i = 32) :=
    (by decide : ∀ k : Fin 33, tableMask.getLsbD k.val = decide (k.val = 32)) ⟨i, hi⟩
  rw [BitVec.getLsbD_and, hm]
  by_cases h : i = 32
  · subst h
    cases w.getLsbD 32 <;> rfl
  · cases w.getLsbD 32 <;> simp [h, hm]

theorem widen (ignored : BitVec 16) (h : Half) : Statement (.widen ignored h) := by
  unfold Statement
  rw [row_of_op_bit (b := false) (by rw [encode, BitVec.getLsbD_append]; rfl)]
  rfl

theorem narrow (s : Single) : Statement (.narrow s) := by
  unfold Statement
  rw [row_of_op_bit (b := true) (by rw [encode, BitVec.getLsbD_append]; rfl)]
  rfl

end Sys2Proof.Laws.TableRow
end

