-- ==== Sys2Proof/Laws/Text.lean ====
section
/-!
SUPPORT. What the digits of the assembler's literals do (spec/30_encoding.md R42), so that no proof about text unfolds
the runs of digits.
-/

namespace Sys2Proof.Machine

/-- A written digit reads back as its value. -/
theorem hexDigitValue_hexDigitChar : ∀ {d : Nat}, d < 16 → hexDigitValue (hexDigitChar d) = some d := by
  decide

/-- A run reads exactly the characters of its stretch, with rising values. -/
theorem DigitRun.valueOf_eq_some_iff {r : DigitRun} {c : Char} {n : Nat} :
    r.valueOf c = some n ↔
      r.first.toNat ≤ c.toNat ∧ c.toNat < r.first.toNat + r.count ∧ n = r.value + (c.toNat - r.first.toNat) := by
  unfold DigitRun.valueOf
  split
  · next h =>
    rw [List.mem_range'_1] at h
    simp [h, eq_comm]
  · next h =>
    rw [List.mem_range'_1] at h
    simp only [reduceCtorEq, false_iff]
    exact fun hn => h ⟨hn.1, hn.2.1⟩

end Sys2Proof.Machine
end

