-- ==== Sys2Proof/Tests/Slice0.lean ====
section
/-!
SUPPORT. The model's own tests: words written out from the spec's encoding, operand and result patterns of
spec/95_test_vectors.md, the ill-formed terms each check refuses, and one witness for the hypotheses of each statement.
Every expected result comes from the spec.
-/

namespace Sys2Proof.Tests

open Sys2Proof Sys2Proof.Machine

/-- A small state: the given request presented, other wires at arbitrary values. -/
def showing (w : RequestWord) : State := ⟨0x1234#16, 0x56789ABC#32, w, 0xFFFFFFFF#32⟩

/-- The response of one step, if it answers a next state. -/
def stepResponse (s : State) : Option ResponseWord :=
  match step s with
  | .next t => some t.response
  | .fault _ => none
  | .refused _ => none

/-! ### Decoding: words written out bit by bit from R38 -/

/-- `op` = 0, sixteen ignored bits 1101 1110 1010 1101, `h` = 0000 0000 0000 0001 (P5). -/
theorem test_decode_widen : decode 0b0_1101111010101101_0000000000000001#33 = .widen 0xDEAD#16 0x0001#16 := by decide

/-- `op` = 1, `s` = 0 01111111 00000000000000000000000 (P1). -/
theorem test_decode_narrow : decode 0b1_0_01111111_00000000000000000000000#33 = .narrow 0x3F800000#32 := by decide

theorem test_encode_words :
    encode (.widen 0x0000#16 0x3C00#16) = 0x000003C00#33 ∧ encode (.narrow 0x40490FDB#32) = 0x140490FDB#33 := by decide

theorem test_decodeTableWord :
    decodeTableWord 40 0x100000000 = some (.narrow 0#32) ∧ decodeTableWord 40 0 = some (.widen 0#16 0#16) ∧
    decodeTableWord 40 0x200000000 = none := by decide

theorem test_withFetchWord_runs :
    stepResponse (State.reset.withFetchWord 40 0x13F801001) = some 0x00003C01#32 := by decide

/-! ### One step of each operation, at the cases most likely to show a bug -/

/-- P5: the smallest subnormal is normalised, and the ignored bits do nothing. -/
theorem test_widen_subnormal : stepResponse (showing 0x0DEAD0001#33) = some 0x33800000#32 := by decide

/-- P3: a signaling NaN stays signaling, with its sign. -/
theorem test_widen_signaling_nan : stepResponse (showing 0x00000FC01#33) = some 0xFF802000#32 := by decide

/-- Section 4.3, the source's tie example S12: to the even fraction. -/
theorem test_narrow_tie_to_even : stepResponse (showing 0x140001000#33) = some 0x00004000#32 := by decide

/-- Section 4.2: the tie under the smallest normal carries into the exponent field, sign kept. -/
theorem test_narrow_carry_from_subnormal : stepResponse (showing 0x1B87FE000#33) = some 0x00008400#32 := by decide

/-! ### Tables of the spec -/

/-- Rows of the reference table of WIDEN (spec/95_test_vectors.md section 2), with the round trip of its last column. -/
theorem test_widen_table :
    widen 0x01FF#16 = 0x37FF8000#32 ∧
    widen 0x83FF#16 = 0xB87FC000#32 ∧
    widen 0x3555#16 = 0x3EAAA000#32 ∧
    widen 0xFBFF#16 = 0xC77FE000#32 ∧
    widen 0xFC00#16 = 0xFF800000#32 ∧
    widen 0x7DFF#16 = 0x7FBFE000#32 := by decide

theorem test_round_trip_table :
    narrow 0x37FF8000#32 = 0x01FF#16 ∧
    narrow 0xB87FC000#32 = 0x83FF#16 ∧
    narrow 0x3EAAA000#32 = 0x3555#16 ∧
    narrow 0xC77FE000#32 = 0xFBFF#16 ∧
    narrow 0xFF800000#32 = 0xFC00#16 ∧
    narrow 0x7FBFE000#32 = 0x7FFF#16 := by decide

/-- Section 4.1 and 4.4 of spec/95_test_vectors.md: zero, NaNs, overflow. -/
theorem test_narrow_special :
    narrow 0x80000000#32 = 0x8000#16 ∧
    narrow 0x7F801FFF#32 = 0x7E00#16 ∧
    narrow 0x7FBFFFFF#32 = 0x7FFF#16 ∧
    narrow 0xFF800001#32 = 0xFE00#16 ∧
    narrow 0x7F7FFFFF#32 = 0x7C00#16 := by decide

/-- Section 4.2: both sides of the thresholds, ties both ways. -/
theorem test_narrow_small :
    narrow 0x32FFFFFF#32 = 0x0000#16 ∧
    narrow 0x33000000#32 = 0x0000#16 ∧
    narrow 0x33000001#32 = 0x0001#16 ∧
    narrow 0x33C00000#32 = 0x0002#16 ∧
    narrow 0x34200000#32 = 0x0002#16 ∧
    narrow 0x387FDFFF#32 = 0x03FF#16 := by decide

/-- Section 4.3 and 4.4: ties, carries, the largest finite pattern. -/
theorem test_narrow_normal :
    narrow 0x3FFFF000#32 = 0x4000#16 ∧
    narrow 0x40003000#32 = 0x4002#16 ∧
    narrow 0xC2F70000#32 = 0xD7B8#16 ∧
    narrow 0xC77FEFFF#32 = 0xFBFF#16 ∧
    narrow 0xC77FF000#32 = 0xFC00#16 := by decide

/-! ### Lines, programs and text -/

/-- Program P1, from its text with a comment, and its meaning. -/
def textP1 : List Char :=
  ['t', '0', ' ', '=', ' ', 'W', 'I', 'D', 'E', 'N', ' ', ' ', '0', 'x', '3', 'C', '0', '0', ' ', ';', ' ', '1', '\n',
   't', '1', ' ', '=', ' ', 'N', 'A', 'R', 'R', 'O', 'W', ' ', 't', '0']

def lineT0 : Line := ⟨some ['t', '0'], .widen (.literal 0x3C00#16)⟩
def lineT1 : Line := ⟨some ['t', '1'], .narrow (.name ['t', '0'])⟩

theorem test_parse_P1 : parseProgram textP1 = some [lineT0, lineT1] := rfl

theorem test_meaning_P1 : programMeaning [lineT0, lineT1] =
    .ok ([0x3F800000#32, 0x00003C00#32], [⟨['t', '1'], .narrow, 0x00003C00#32⟩, ⟨['t', '0'], .widen, 0x3F800000#32⟩]) := by
  rfl

/-! ### Well-formedness: the checks refuse (R42). An instruction has no ill-formed term (R41). -/

theorem test_wf_accepts_P1 : programWellFormed [lineT0, lineT1] = true := rfl

theorem test_wf_refuses_bad_identifier :
    programWellFormed [⟨some ['0', 't'], .widen (.literal 0#16)⟩] = false ∧
    programWellFormed [⟨some [], .widen (.literal 0#16)⟩] = false := by decide

theorem test_wf_refuses_unbound_name : programWellFormed [lineT1] = false := by decide

theorem test_wf_refuses_later_name : programWellFormed [lineT1, lineT0] = false := by decide

theorem test_wf_refuses_wrong_operation :
    programWellFormed [lineT0, ⟨none, .widen (.name ['t', '0'])⟩] = false ∧
    programWellFormed [⟨some ['a'], .narrow (.literal 0#32)⟩, ⟨none, .narrow (.name ['a'])⟩] = false := by decide

theorem test_wf_refuses_name_bound_twice : programWellFormed [lineT0, lineT0] = false := by decide

theorem test_text_refuses_bad_lines :
    parseLine ['w', 'i', 'd', 'e', 'n', ' ', '0', 'x', '3', 'C', '0', '0'] = none ∧
    parseLine ['W', 'I', 'D', 'E', 'N', ' ', '0', 'x', '3', 'C', '0'] = none ∧
    parseLine ['W', 'I', 'D', 'E', 'N'] = none ∧
    parseLine [' ', ';', 'W'] = some none := by decide

/-- R42's literals: letters of either case, and no other character (log entry 7). -/
theorem test_text_hex_digits :
    parseSource 4 ['0', 'x', '3', 'C', 'f', '9'] = some (.literal 0x3CF9#16) ∧
    parseSource 4 ['0', 'x', '3', 'C', 'G', '9'] = none ∧ showSource 4 (.literal 0xA0F9#16) = ['0', 'x', 'A', '0', 'F', '9'] := by
  decide

/-! ### Witnesses: concrete terms that meet the hypotheses of the statements -/

/-- StepCarriesOutTheDecodedRequest, DecodeOfEncodeIsTheInstruction: both constructors are well formed. -/
theorem witness_wellFormed :
    (Instr.widen 0xFFFF#16 0x0000#16).wellFormed = true ∧ (Instr.narrow 0xFFFFFFFF#32).wellFormed = true := by decide

/-- IgnoredBitsHaveNoEffect: two WIDEN requests that differ in the ignored bits only. -/
theorem witness_ignored_bits :
    (0x0DEAD0001#33).getLsbD 32 = false ∧ (0x000000001#33).getLsbD 32 = false ∧
    (0x0DEAD0001#33).extractLsb' 0 16 = (0x000000001#33).extractLsb' 0 16 := by decide

/-- EveryResponseIsThatOfItsRequest: a request of each operation. -/
theorem witness_request_of_each_operation :
    (showing 0x0FFFFFFFF#33).request.getLsbD 32 = false ∧ (showing 0x100000000#33).request.getLsbD 32 = true := by decide

/-- EvaluationsDoNotInteract: a permutation of two requests, and two instances. -/
theorem witness_two_requests : List.Perm [0x000003C00#33, 0x13F800000#33] [0x13F800000#33, 0x000003C00#33] :=
  List.Perm.swap _ _ _

theorem witness_two_instances :
    (0 : Nat) ≠ 1 ∧ [showing 0x000003C00#33, showing 0x13F800000#33][0]? = some (showing 0x000003C00#33) ∧
    [showing 0x000003C00#33, showing 0x13F800000#33][1]? = some (showing 0x13F800000#33) := by decide

/-- StepKeepsTheInterfaceSettled: a settled state with a NARROW request that a step takes to a next state. -/
theorem witness_settled_step :
    let s : State := ⟨0x1234#16, 0x3F801001#32, 0x13F801001#33, 0x00003C01#32⟩
    (Settled s ∧ ResponseForm s) ∧ step s = .next s := by
  unfold Settled ResponseForm
  refine ⟨by decide, rfl⟩

/-- The same with a WIDEN request, whose ignored bits are not zero. -/
theorem witness_settled_widen_step :
    let s : State := ⟨0x0001#16, 0x3F801001#32, 0x0DEAD0001#33, 0x33800000#32⟩
    (Settled s ∧ ResponseForm s) ∧ step s = .next s := by
  unfold Settled ResponseForm
  refine ⟨by decide, rfl⟩

/-- WidenOfInfinity, WidenOfNaN, WidenOfZero, WidenSubnormalLoopIsTheClosedForm, WidenOfNormal: the operand of each
case, at the edges of its range. -/
theorem witness_widen_cases :
    (exp16 0xFC00#16 = 0x1F#5 ∧ frac16 0xFC00#16 = 0#10) ∧
    (exp16 0x7C01#16 = 0x1F#5 ∧ frac16 0x7C01#16 ≠ 0#10) ∧
    (exp16 0xFFFF#16 = 0x1F#5 ∧ frac16 0xFFFF#16 ≠ 0#10) ∧
    (class16 0x7C01#16 = .nan ∧ class16 0x7C02#16 = .nan ∧ 0x7C01#16 ≠ 0x7C02#16) ∧
    (exp16 0x8000#16 = 0#5 ∧ frac16 0x8000#16 = 0#10) ∧
    (exp16 0x0001#16 = 0#5 ∧ frac16 0x0001#16 ≠ 0#10) ∧
    (exp16 0x03FF#16 = 0#5 ∧ frac16 0x03FF#16 ≠ 0#10) ∧
    (1 ≤ (exp16 0x0400#16).toNat ∧ (exp16 0x0400#16).toNat ≤ 30) ∧
    (1 ≤ (exp16 0x7BFF#16).toNat ∧ (exp16 0x7BFF#16).toNat ≤ 30) := by decide

/-- WidenResultProperties, WidenPreservesTheOrder, WidenIsExact, GapsOfHalfMagnitudes, RoundTripOfHalf: a pattern of each
class and of each kind of NaN. -/
theorem witness_half_classes :
    class16 0x8000#16 = .zero ∧ class16 0x0001#16 = .subnormal ∧ class16 0x0400#16 = .normal ∧
    class16 0x7C00#16 = .infinity ∧ class16 0x7C01#16 = .nan ∧
    ((class16 0x7BFF#16).isFinite = true ∧ class16 0x7BFF#16 ≠ .zero) ∧
    (class16 0x0000#16 ≠ .nan ∧ class16 0xFC00#16 ≠ .nan) ∧
    isSignalingNaN16 0x7E00#16 = false ∧ isSignalingNaN16 0x7DFF#16 = true := by decide

/-- QuietAndSignalingNaNs: the smallest signaling NaN of each format. -/
theorem witness_signaling :
    isSignalingNaN16 0x7C01#16 = true ∧ isSignalingNaN32 0x7F800001#32 = true := by decide

/-- NarrowOfInfinity, NarrowOfNaN, AllOnesExponentTakesPrecedence: an infinity, and a NaN with one low fraction bit. -/
theorem witness_narrow_all_ones :
    (exp32 0xFF800000#32 = 0xFF#8 ∧ frac32 0xFF800000#32 = 0#23) ∧
    (exp32 0x7F800001#32 = 0xFF#8 ∧ frac32 0x7F800001#32 ≠ 0#23) := by decide

/-- NarrowOverflowGivesInfinity, NarrowUnderflowGivesZero: both ends of each range, and the two classes below. -/
theorem witness_narrow_overflow_underflow :
    ((exp32 0x47800000#32).toNat ≠ 0xFF ∧ halfExponent 0x47800000#32 ≥ 31) ∧
    ((exp32 0x7F7FFFFF#32).toNat ≠ 0xFF ∧ halfExponent 0x7F7FFFFF#32 ≥ 31) ∧
    halfExponent 0x32FFFFFF#32 < -10 ∧ class32 0x80000000#32 = .zero ∧ class32 0x007FFFFF#32 = .subnormal := by decide

/-- RoundUpIsNearestTiesToEven: the smallest shift, with a tie whose kept value is odd. -/
theorem witness_round_up : 1 ≤ 1 ∧ roundUp 3 1 = true ∧ roundUp 1 1 = false := by decide

/-- NarrowSubnormalRange, NarrowNormalRange: both ends of each range of `he`. -/
theorem witness_narrow_ranges :
    halfExponent 0x33000000#32 = -10 ∧ halfExponent 0x387FE000#32 = 0 ∧
    halfExponent 0x38800000#32 = 1 ∧ halfExponent 0x477FF000#32 = 30 := by decide

/-- CarriesOutOfTheFraction: an operand for each of the three carries. -/
theorem witness_carries :
    (1 ≤ halfExponent 0x3FFFF000#32 ∧ halfExponent 0x3FFFF000#32 ≤ 29 ∧
      (frac32 0x3FFFF000#32).extractLsb' 13 10 = 0x3FF#10 ∧ roundUp (frac32 0x3FFFF000#32).toNat 13 = true) ∧
    (halfExponent 0x387FE000#32 = 0 ∧ (0x800000 ||| (frac32 0x387FE000#32).toNat) >>> 14 = 0x3FF ∧
      roundUp (0x800000 ||| (frac32 0x387FE000#32).toNat) 14 = true) ∧
    (halfExponent 0x477FF000#32 = 30 ∧ (frac32 0x477FF000#32).extractLsb' 13 10 = 0x3FF#10 ∧
      roundUp (frac32 0x477FF000#32).toNat 13 = true) ∧
    (-10 ≤ halfExponent 0x33000000#32 ∧ halfExponent 0x33000000#32 ≤ 30) := by decide

/-- EdgeCasePolicyOfRequests, NarrowResultClass, NarrowIsRoundToNearestEven, NarrowIsMonotone: a pattern of each class. -/
theorem witness_single_classes :
    class32 0x80000000#32 = .zero ∧ class32 0x00000001#32 = .subnormal ∧ class32 0x00800000#32 = .normal ∧
    class32 0xFF800000#32 = .infinity ∧ class32 0x7F800001#32 = .nan ∧
    mag32 0xFF7FFFFF#32 ≤ mag32 0x7F800000#32 ∧ mag32 0x7F800000#32 ≤ 0x7F800000#32 := by decide

/-- The finite value thresholds of the same statements: 65520, 65536 and 2^(-25) exactly, and 1023.5 units. -/
theorem witness_value_65520 : ∃ n v, val32 0x477FF000#32 = .finite n v ∧ 65520 ≤ v := by
  refine ⟨_, _, val32_of_normal (by decide), ?_⟩
  rw [show (exp32 0x477FF000#32).toNat = 142 by decide, show (frac32 0x477FF000#32).toNat = 0x7FF000 by decide]
  norm_num

theorem witness_value_65536 : ∃ n v, val32 0x47800000#32 = .finite n v ∧ 65536 ≤ v := by
  refine ⟨_, _, val32_of_normal (by decide), ?_⟩
  rw [show (exp32 0x47800000#32).toNat = 143 by decide, show (frac32 0x47800000#32).toNat = 0 by decide]
  norm_num

theorem witness_value_smallest_tie : ∃ n v, val32 0x33000000#32 = .finite n v ∧ v ≤ (2 : ℚ) ^ (-25 : ℤ) ∧ v < 65520 := by
  refine ⟨_, _, val32_of_normal (by decide), ?_⟩
  rw [show (exp32 0x33000000#32).toNat = 102 by decide, show (frac32 0x33000000#32).toNat = 0 by decide]
  norm_num

theorem witness_value_subnormal_result : ∃ n v, val32 0x33800000#32 = .finite n v ∧
    (2 : ℚ) ^ (-25 : ℤ) < v ∧ v < (1023.5 : ℚ) * 2 ^ (-24 : ℤ) := by
  refine ⟨_, _, val32_of_normal (by decide), ?_⟩
  rw [show (exp32 0x33800000#32).toNat = 103 by decide, show (frac32 0x33800000#32).toNat = 0 by decide]
  norm_num

theorem witness_value_normal_result : ∃ n v, val32 0x387FE000#32 = .finite n v ∧
    (1023.5 : ℚ) * 2 ^ (-24 : ℤ) ≤ v ∧ v < 65520 := by
  refine ⟨_, _, val32_of_normal (by decide), ?_⟩
  rw [show (exp32 0x387FE000#32).toNat = 112 by decide, show (frac32 0x387FE000#32).toNat = 0x7FE000 by decide]
  norm_num

theorem witness_value_infinity : ∃ n, val32 0xFF800000#32 = .infinity n := ⟨_, val32_of_infinity (by decide)⟩

/-- NarrowIsMonotone: -0 below or equal to +0, two values that are not NaN. -/
theorem witness_ordered_values : class32 0x80000000#32 ≠ .nan ∧ class32 0x00000000#32 ≠ .nan ∧
    Value.le (val32 0x80000000#32) (val32 0x00000000#32) := by
  refine ⟨by decide, by decide, ?_⟩
  rw [val32_of_zero (by decide), val32_of_zero (by decide)]
  simp [Value.le, signedMagnitude]

/-- GapsOfHalfMagnitudes: the last gap, up to the virtual value. BoundaryExamples: the ends of its two ranges. -/
theorem witness_ranges_of_patterns :
    0x7BFF < 0x7C00 ∧ 0x33000000#32 ≤ 0x33000000#32 ∧ 0x387FE000#32 ≤ 0x387FE000#32 ∧ 0x387FE000#32 ≤ 0x38801000#32 := by
  decide

/-- ConditionsShowInTheResponseOnly: an operand for each condition, for each operation that has it. -/
theorem witness_conditions :
    narrowOverflows 0x477FF000#32 = true ∧ narrowUnderflows 0x33000000#32 = true ∧
    (narrowInexact 0x40001000#32 = true ∧ narrowOverflows 0x40001000#32 = false) ∧
    narrowInvalid 0x7F802000#32 = true ∧ widenInvalid 0x7C01#16 = true := by decide

/-- ProgramRunIsItsMeaning: a program with a meaning, and one without. -/
theorem witness_program_outcomes :
    (∃ rs final, meaningFrom [] [lineT0, lineT1] = .ok (rs, final)) ∧
    meaningFrom [] [lineT1] = .error (.unboundName ['t', '0']) := ⟨⟨_, _, test_meaning_P1⟩, rfl⟩

/-- IndependentLinesMayBeSwapped: two named lines, of which the second names no line. -/
theorem witness_independent_lines :
    (∀ n, lineOperandName (Line.mk (some ['c']) (.narrow (.literal 0x33000000#32))).op = some n →
      lineT0.name ≠ some n) ∧
    ∃ final, meaningFrom [] [lineT0, ⟨some ['c'], .narrow (.literal 0x33000000#32)⟩] =
      .ok ([0x3F800000#32, 0x00000000#32], final) :=
  ⟨fun _ h => by simp [lineOperandName] at h, _, rfl⟩

/-- LineTextReadsBack: a line with names. -/
theorem witness_line_names_ok : lineNamesOk lineT1 = true ∧ lineNamesOk lineT0 = true := by decide

end Sys2Proof.Tests
end

/-! ### What an evaluation does, for every instruction -/

namespace Sys2Proof.Machine

/-- The response word of an instruction, computed from its operand alone (R2, R4, R40). -/
def instrResponse : Instr → ResponseWord
  | .widen _ h => widen h
  | .narrow x => (narrow x).setWidth 32

/-- The interface after an instruction has been evaluated (log entries 2 and 4). -/
def afterExec : Instr → State → State
  | .widen g h, s => (s.driveWidenIn h).respond (instrResponse (.widen g h))
  | .narrow x, s => (s.driveNarrowIn x).respond (instrResponse (.narrow x))

/-- Every instruction completes at every state, in the state `afterExec` names. -/
theorem exec_eq_next_afterExec (i : Instr) (s : State) : exec i s = .next (afterExec i s) := by
  cases i with
  | widen _ h => exact execWiden_eq h s
  | narrow x => exact execNarrow_eq x s

@[simp] theorem afterExec_response (i : Instr) (s : State) : (afterExec i s).response = instrResponse i := by
  cases i <;> rfl

@[simp] theorem afterExec_request (i : Instr) (s : State) : (afterExec i s).request = s.request := by
  cases i <;> rfl

@[simp] theorem afterExec_widen_narrowIn (g : BitVec 16) (h : Half) (s : State) :
    (afterExec (.widen g h) s).narrowIn = s.narrowIn := rfl

@[simp] theorem afterExec_narrow_widenIn (x : Single) (s : State) :
    (afterExec (.narrow x) s).widenIn = s.widenIn := rfl

/-- An instruction answers its response word at every state, and nothing else at any state. -/
theorem answers_iff {i : Instr} {s : State} {r : ResponseWord} : Answers i s r ↔ r = instrResponse i := by
  constructor
  · rintro ⟨t, ht, rfl⟩
    rw [exec_eq_next_afterExec] at ht
    cases ht
    exact afterExec_response i s
  · rintro rfl
    exact ⟨_, exec_eq_next_afterExec i s, afterExec_response i s⟩

/-! ### The scope of the hardware (spec/00_scope.md) -/

/-- Settles O8: every instruction completes, and its one answer is its response word; that a second response is the
same one shows at the reset state with the ignored bits zero. -/
theorem bothOperationsAreTotal : Obligations.BothOperationsAreTotal := by
  refine ⟨fun i s => ⟨_, exec_eq_next_afterExec i s⟩, fun h => ?_, fun x => ?_⟩
  · exact ⟨widen h, fun _ _ => answers_iff.mpr rfl, fun _ hr => answers_iff.mp (hr 0#16 State.reset)⟩
  · exact ⟨(narrow x).setWidth 32, fun _ => answers_iff.mpr rfl, fun _ hr => answers_iff.mp (hr State.reset)⟩

/-- Settles O12: the response after an evaluation is the response word of the instruction, in which no state and no
ignored bit occurs. -/
theorem resultDependsOnTheOperandOnly : Obligations.ResultDependsOnTheOperandOnly := by
  refine ⟨fun g g' h s s' => ?widen, fun x s s' => ?narrow, fun i j s => ?afterAnother⟩
  case widen =>
    refine ⟨_, _, exec_eq_next_afterExec _ s, exec_eq_next_afterExec _ s', ?_, by simp, by simp⟩
    simp [instrResponse]
  case narrow =>
    exact ⟨_, _, exec_eq_next_afterExec _ s, exec_eq_next_afterExec _ s', by simp, by simp, by simp⟩
  case afterAnother =>
    exact ⟨_, _, _, exec_eq_next_afterExec j s, exec_eq_next_afterExec i _, exec_eq_next_afterExec i s, by simp⟩

/-- Settles O18: the constants are numerals, and the last two are defined as the differences R5 gives. -/
theorem formatConstantsAreFixed : Obligations.FormatConstantsAreFixed := by
  unfold Obligations.FormatConstantsAreFixed
  decide

end Sys2Proof.Machine

/-! ### The interface (spec/10_state.md) -/

namespace Sys2Proof.Machine

/-- Settles O15: an output port is computed from its own input port (R16), and driving an input port sets that one and
leaves the other. -/
theorem portsAreFunctionsOfTheirInputs : Obligations.PortsAreFunctionsOfTheirInputs := by
  intro s h x
  refine ⟨?widenDriven, ?narrowDriven, ?widenKept, ?narrowKept⟩
  case widenDriven => rw [widenOut_eq, driveWidenIn_widenIn]
  case narrowDriven => rw [narrowOut_eq, driveNarrowIn_narrowIn]
  case widenKept => rw [widenOut_eq, driveNarrowIn_widenIn, widenOut_eq]
  case narrowKept => rw [narrowOut_eq, driveWidenIn_narrowIn, narrowOut_eq]

end Sys2Proof.Machine

/-! ### Evaluation again, and evaluations side by side (spec/20_memory.md) -/

namespace Sys2Proof.Machine

/-- The interface after one evaluation of the request it presents. -/
def afterStep (s : State) : State := afterExec (decode s.request) s

/-- The decoder and `resp` read the same operation and the same operand from a request word (R40). -/
theorem instrResponse_decode (w : RequestWord) : instrResponse (decode w) = resp w := by
  by_cases hw : w.getLsbD 32 = false
  · rw [decode, if_pos ((opField_eq_zero_iff w).mpr hw), resp, if_pos hw, instrResponse, dataField_operand16]
  · rw [decode, if_neg (mt (opField_eq_zero_iff w).mp hw), resp, if_neg hw, instrResponse, dataField]

theorem step_eq_next_afterStep (s : State) : step s = .next (afterStep s) := exec_eq_next_afterExec _ s

@[simp] theorem afterStep_request (s : State) : (afterStep s).request = s.request := afterExec_request _ s

@[simp] theorem afterStep_response (s : State) : (afterStep s).response = resp s.request := by
  rw [afterStep, afterExec_response, instrResponse_decode]

/-- An evaluation writes the operand and the response, which are the same the second time. -/
theorem afterExec_afterExec_same (i : Instr) (s : State) : afterExec i (afterExec i s) = afterExec i s := by
  cases i <;> rfl

theorem afterStep_afterStep (s : State) : afterStep (afterStep s) = afterStep s := by
  rw [afterStep, afterStep_request, afterStep, afterExec_afterExec_same]

/-- Settles O13: the second evaluation finds the same request, and evaluating one instruction twice is evaluating it
once. -/
theorem repeatingAnEvaluationChangesNothing : Obligations.RepeatingAnEvaluationChangesNothing := by
  intro s
  refine ⟨afterStep s, step_eq_next_afterStep s, ?_⟩
  rw [step_eq_next_afterStep, afterStep_afterStep]

/-- The interface after a list of requests has been presented and evaluated, one after another. -/
def afterRequests (s : State) (ws : List RequestWord) : State := ws.foldl (fun t w => afterStep (t.present w)) s

/-- Each request has the response `resp` gives it, whatever was evaluated before it (R25). -/
theorem answerAll_eq_map_resp (s : State) (ws : List RequestWord) :
    answerAll s ws = some (ws.map resp, afterRequests s ws) := by
  induction ws generalizing s with
  | nil => rfl
  | cons w ws ih =>
    simp only [answerAll, step_eq_next_afterStep, ih, afterStep_response, present_request, List.map_cons,
      afterRequests, List.foldl_cons]

theorem stepAt_eq_set {ms : Instances} {k : Nat} {m : State} (hm : ms[k]? = some m) :
    stepAt k ms = some (ms.set k (afterStep m)) := by
  simp only [stepAt, hm, step_eq_next_afterStep]

/-- Settles O14: the responses are the map of `resp`, which a permutation of the requests carries along; an evaluation
on an instance sets that entry of the list only (R96), and setting two different entries commutes. -/
theorem evaluationsDoNotInteract : Obligations.EvaluationsDoNotInteract := by
  refine ⟨fun s ws => ⟨_, answerAll_eq_map_resp s ws⟩, fun s ws ws' hp => ?permuted,
    fun ms j k a b hjk ha hb => ?instances⟩
  case permuted =>
    exact ⟨_, _, _, _, answerAll_eq_map_resp s ws, answerAll_eq_map_resp s ws', hp.map resp⟩
  case instances =>
    obtain ⟨hj, -⟩ := List.getElem?_eq_some_iff.mp ha
    obtain ⟨hk, -⟩ := List.getElem?_eq_some_iff.mp hb
    have keptK : (ms.set j (afterStep a))[k]? = some b := by rw [List.getElem?_set_ne hjk, hb]
    have keptJ : (ms.set k (afterStep b))[j]? = some a := by rw [List.getElem?_set_ne hjk.symm, ha]
    refine ⟨_, _, (ms.set j (afterStep a)).set k (afterStep b), afterStep a, afterStep b,
      stepAt_eq_set ha, stepAt_eq_set hb, stepAt_eq_set keptK, ?otherOrder, keptK, keptJ, ?atJ, ?atK,
      afterStep_response a, afterStep_response b⟩
    case otherOrder => rw [stepAt_eq_set keptJ, List.set_comm _ _ hjk]
    case atJ => rw [List.getElem?_set_ne hjk.symm, List.getElem?_set_self hj]
    case atK => rw [List.getElem?_set_self (by rwa [List.length_set])]

end Sys2Proof.Machine

/-! ### Request words: the decoder and the encoder (spec/30_encoding.md R38 to R41) -/

namespace Sys2Proof

@[simp] theorem opField_append (op : BitVec 1) (data : BitVec 32) : opField (op ++ data) = op :=
  BitVec.extractLsb'_append_eq_left

@[simp] theorem dataField_append (op : BitVec 1) (data : BitVec 32) : dataField (op ++ data) = data :=
  BitVec.extractLsb'_append_eq_right

/-- A request word is its two fields (format REQ, R38). -/
theorem opField_append_dataField (w : RequestWord) : opField w ++ dataField w = w :=
  BitVec.extractLsb'_append_extractLsb'

theorem decode_of_opField_eq_zero {w : RequestWord} (hop : opField w = 0#1) :
    decode w = .widen ((dataField w).extractLsb' 16 16) ((dataField w).extractLsb' 0 16) := if_pos hop

theorem decode_of_opField_ne_zero {w : RequestWord} (hop : opField w ≠ 0#1) : decode w = .narrow (dataField w) :=
  if_neg hop

/-- The `op` field is one bit. -/
theorem opField_eq_one_of_ne_zero {w : RequestWord} (hop : opField w ≠ 0#1) : opField w = 1#1 :=
  (BitVec.eq_zero_or_eq_one _).resolve_left hop

@[simp] theorem decode_encode (i : Instr) : decode (encode i) = i := by
  cases i with
  | widen ignored h =>
    have hop : opField (encode (.widen ignored h)) = 0#1 := opField_append _ _
    rw [decode_of_opField_eq_zero hop, encode, dataField_append, BitVec.extractLsb'_append_eq_left,
      BitVec.extractLsb'_append_eq_right]
  | narrow s =>
    have hop : opField (encode (.narrow s)) ≠ 0#1 := by
      rw [encode, opField_append]
      decide
    rw [decode_of_opField_ne_zero hop, encode, dataField_append]

@[simp] theorem encode_decode (w : RequestWord) : encode (decode w) = w := by
  by_cases hop : opField w = 0#1
  · rw [decode_of_opField_eq_zero hop, encode, BitVec.extractLsb'_append_extractLsb', ← hop,
      opField_append_dataField]
  · rw [decode_of_opField_ne_zero hop, encode, ← opField_eq_one_of_ne_zero hop, opField_append_dataField]

theorem decode_eq_widen_iff (w : RequestWord) : (∃ g h, decode w = .widen g h) ↔ w.getLsbD 32 = false := by
  rw [← Machine.opField_eq_zero_iff]
  refine ⟨fun ⟨g, h, hd⟩ => ?_, fun hop => ⟨_, _, decode_of_opField_eq_zero hop⟩⟩
  by_contra hop
  simp [decode_of_opField_ne_zero hop] at hd

theorem decode_eq_narrow_iff (w : RequestWord) : (∃ x, decode w = .narrow x) ↔ w.getLsbD 32 = true := by
  rw [← Bool.not_eq_false, ← Machine.opField_eq_zero_iff]
  refine ⟨fun ⟨x, hd⟩ hop => ?_, fun hop => ⟨_, decode_of_opField_ne_zero hop⟩⟩
  simp [decode_of_opField_eq_zero hop] at hd

theorem wellFormed_eq_true (i : Instr) : i.wellFormed = true := by
  cases i <;> rfl

/-- Settles O2: each field of the request word is the part of the concatenation that was written there, so the decoder
finds the operation and every bit of its data. -/
theorem decodeOfEncodeIsTheInstruction : Obligations.DecodeOfEncodeIsTheInstruction :=
  fun i _ => decode_encode i

/-- Settles O3: the encoder puts together again the fields the decoder took apart, and no instruction is ill formed. -/
theorem encodeOfDecodeIsTheWord : Obligations.EncodeOfDecodeIsTheWord :=
  fun w => ⟨wellFormed_eq_true _, encode_decode w⟩

/-- Settles O4: under the mask of bit 32 a word is zero or the mask itself, and that bit is what the decoder reads. -/
theorem opcodeRowsSelectTheOperation : Obligations.OpcodeRowsSelectTheOperation := by
  intro w
  rw [decode_eq_widen_iff, decode_eq_narrow_iff, show 0x100000000#33 = tableMask from rfl,
    Laws.TableRow.row_of_op_bit rfl]
  cases w.getLsbD 32 <;> decide

/-- Settles O5: the five words are evaluated. -/
theorem writtenOutRequestWordsDecode : Obligations.WrittenOutRequestWordsDecode := by
  unfold Obligations.WrittenOutRequestWordsDecode
  decide

namespace Machine

theorem step_present (s : State) (w : RequestWord) : step (s.present w) = exec (decode w) (s.present w) := rfl

/-- Settles O1: a step is defined as `exec` of the decoded word, and an encoded instruction decodes to itself. -/
theorem stepCarriesOutTheDecodedRequest : Obligations.StepCarriesOutTheDecodedRequest := by
  refine ⟨fun _ => rfl, fun i s _ => ?_⟩
  rw [step_present, decode_encode]

theorem resp_of_widen {w : RequestWord} (hw : w.getLsbD 32 = false) : resp w = widen (w.extractLsb' 0 16) := if_pos hw

theorem resp_of_narrow {w : RequestWord} (hw : w.getLsbD 32 = true) :
    resp w = (narrow (w.extractLsb' 0 32)).setWidth 32 := by
  rw [resp, hw, if_neg Bool.true_eq_false_eq_False]

/-- A binary16 result stands in the low half of its response word. -/
@[simp] theorem setWidth_extractLsb'_low (h : Half) : (h.setWidth 32).extractLsb' 0 16 = h := by
  ext i hi
  simp [hi, show i < 32 by omega]

/-- The high half of the response word of a binary16 result is zero (R40). -/
@[simp] theorem setWidth_extractLsb'_high (h : Half) : (h.setWidth 32).extractLsb' 16 16 = 0#16 := by
  ext i hi
  simp

/-- Settles O6: the ignored bits are no argument of WIDEN's meaning, and the response to a WIDEN word is read from
`data[15:0]`. -/
theorem ignoredBitsHaveNoEffect : Obligations.IgnoredBitsHaveNoEffect := by
  refine ⟨fun _ _ _ _ => rfl, fun w w' hw hw' hdata s => ?_⟩
  refine ⟨_, _, step_eq_next_afterStep _, step_eq_next_afterStep _, ?_⟩
  simp only [afterStep_response, present_request, resp_of_widen hw, resp_of_widen hw', hdata]

/-- Settles O7: the response after a step is `resp` of the presented word, in the form of its operation. -/
theorem everyResponseIsThatOfItsRequest : Obligations.EveryResponseIsThatOfItsRequest := by
  intro s
  refine ⟨_, step_eq_next_afterStep s, afterStep_request s, fun hw => ?_, fun hw => ?_⟩
  · rw [afterStep_response, resp_of_widen hw]
  · rw [afterStep_response, resp_of_narrow hw]
    exact ⟨setWidth_extractLsb'_low _, setWidth_extractLsb'_high _⟩

/-- Settles O58: a line of a literal assembles to the encoding of its instruction, whose bits are read off the
concatenation. -/
theorem assembledLiteralsGiveTheirRequest : Obligations.AssembledLiteralsGiveTheirRequest := by
  refine fun env => ⟨fun v => ⟨_, rfl, ?opWiden, ?ignored, ?operand16⟩, fun v => ⟨_, rfl, ?opNarrow, ?operand32⟩⟩
  case opWiden => exact (opField_eq_zero_iff _).mp (opField_append _ _)
  case ignored =>
    rw [encode, BitVec.extractLsb'_append_eq_of_add_le (by decide), BitVec.extractLsb'_append_eq_left]
  case operand16 =>
    rw [encode, BitVec.extractLsb'_append_eq_of_add_le (by decide), BitVec.extractLsb'_append_eq_right]
  case opNarrow => exact (decode_eq_narrow_iff _).mp ⟨v, decode_encode (.narrow v)⟩
  case operand32 => exact dataField_append _ _

end Machine
end Sys2Proof

/-! ### The fields, masks and classes of a pattern (spec/30_encoding.md R30, R31, R34 to R36) -/

namespace Sys2Proof.Machine

/-- A mask of `k` ones above `i` zeros selects the field of width `k` at bit `i`, in place. -/
theorem toNat_and_fieldMask {w : Nat} (x : BitVec w) {mask : BitVec w} (k i : Nat)
    (hmask : mask.toNat = (2 ^ k - 1) <<< i) : (x &&& mask).toNat = x.toNat / 2 ^ i % 2 ^ k * 2 ^ i := by
  rw [BitVec.toNat_and, hmask, ← Nat.shiftLeft_eq, ← Nat.and_two_pow_sub_one_eq_mod, ← Nat.shiftRight_eq_div_pow]
  apply Nat.eq_of_testBit_eq
  intro j
  by_cases hj : i ≤ j <;> simp [hj, Bool.and_comm]

theorem mag16_toNat (h : Half) : (mag16 h).toNat = h.toNat % 2 ^ 15 := by
  rw [mag16, toNat_and_fieldMask h 15 0 rfl]
  omega

theorem mag32_toNat (s : Single) : (mag32 s).toNat = s.toNat % 2 ^ 31 := by
  rw [mag32, toNat_and_fieldMask s 31 0 rfl]
  omega

theorem pack16_fields (h : Half) : pack16 (sign16 h) (exp16 h) (frac16 h) = h := by
  have upper : sign16 h ++ exp16 h = h.extractLsb' 10 6 := BitVec.extractLsb'_append_extractLsb'_eq_extractLsb' rfl
  rw [pack16, upper]
  exact BitVec.extractLsb'_append_extractLsb'

theorem pack32_fields (s : Single) : pack32 (sign32 s) (exp32 s) (frac32 s) = s := by
  have upper : sign32 s ++ exp32 s = s.extractLsb' 23 9 := BitVec.extractLsb'_append_extractLsb'_eq_extractLsb' rfl
  rw [pack32, upper]
  exact BitVec.extractLsb'_append_extractLsb'

/-- Settles O19: a mask selects the field under it, and the three fields are the three digits of the number. -/
theorem halfLayout : Obligations.HalfLayout := by
  refine ⟨rfl, fun h => ⟨pack16_fields h, ?number, ?sign, ?exponent, ?fraction, ?magnitude⟩⟩
  all_goals
    have hlt := h.isLt
    simp only [sign16_toNat, exp16_toNat, frac16_toNat]
  case number => omega
  case sign =>
    rw [toNat_and_fieldMask h 1 15 rfl]
    omega
  case exponent => exact toNat_and_fieldMask h 5 10 rfl
  case fraction =>
    rw [toNat_and_fieldMask h 10 0 rfl]
    omega
  case magnitude =>
    rw [← mag16, mag16_toNat]
    omega

/-- Settles O20: a mask selects the field under it. -/
theorem singleLayout : Obligations.SingleLayout := by
  refine ⟨rfl, fun s => ⟨pack32_fields s, ?sign, ?exponent, ?fraction, ?magnitude⟩⟩
  all_goals
    have hlt := s.isLt
    simp only [sign32_toNat, exp32_toNat, frac32_toNat]
  case sign =>
    rw [toNat_and_fieldMask s 1 31 rfl]
    omega
  case exponent => exact toNat_and_fieldMask s 8 23 rfl
  case fraction =>
    rw [toNat_and_fieldMask s 23 0 rfl]
    omega
  case magnitude =>
    rw [← mag32, mag32_toNat]
    omega

/-! ### Classes as ranges of the magnitude -/

theorem class16_zero_iff (h : Half) : class16 h = .zero ↔ (exp16 h).toNat = 0 ∧ (frac16 h).toNat = 0 :=
  classOfFields_zero_iff

theorem class16_subnormal_iff (h : Half) : class16 h = .subnormal ↔ (exp16 h).toNat = 0 ∧ (frac16 h).toNat ≠ 0 :=
  classOfFields_subnormal_iff

theorem class16_normal_iff (h : Half) : class16 h = .normal ↔ (exp16 h).toNat ≠ 0 ∧ (exp16 h).toNat ≠ 31 :=
  classOfFields_normal_iff

theorem class16_infinity_iff (h : Half) : class16 h = .infinity ↔ (exp16 h).toNat = 31 ∧ (frac16 h).toNat = 0 :=
  classOfFields_infinity_iff (by decide)

theorem class16_nan_iff (h : Half) : class16 h = .nan ↔ (exp16 h).toNat = 31 ∧ (frac16 h).toNat ≠ 0 :=
  classOfFields_nan_iff (by decide)

theorem class32_zero_iff (s : Single) : class32 s = .zero ↔ (exp32 s).toNat = 0 ∧ (frac32 s).toNat = 0 :=
  classOfFields_zero_iff

theorem class32_subnormal_iff (s : Single) :
    class32 s = .subnormal ↔ (exp32 s).toNat = 0 ∧ (frac32 s).toNat ≠ 0 :=
  classOfFields_subnormal_iff

theorem class32_normal_iff (s : Single) : class32 s = .normal ↔ (exp32 s).toNat ≠ 0 ∧ (exp32 s).toNat ≠ 255 :=
  classOfFields_normal_iff

theorem class32_infinity_iff (s : Single) :
    class32 s = .infinity ↔ (exp32 s).toNat = 255 ∧ (frac32 s).toNat = 0 :=
  classOfFields_infinity_iff (by decide)

theorem class32_nan_iff (s : Single) : class32 s = .nan ↔ (exp32 s).toNat = 255 ∧ (frac32 s).toNat ≠ 0 :=
  classOfFields_nan_iff (by decide)

/-- The first magnitude of a class of binary16, and the first one above the class (R34). -/
def FloatClass.range16 : FloatClass → Nat × Nat
  | .zero => (0, 1)
  | .subnormal => (1, 0x400)
  | .normal => (0x400, 0x7C00)
  | .infinity => (0x7C00, 0x7C01)
  | .nan => (0x7C01, 0x8000)

/-- The first magnitude of a class of binary32, and the first one above the class (R35). -/
def FloatClass.range32 : FloatClass → Nat × Nat
  | .zero => (0, 1)
  | .subnormal => (1, 0x800000)
  | .normal => (0x800000, 0x7F800000)
  | .infinity => (0x7F800000, 0x7F800001)
  | .nan => (0x7F800001, 0x80000000)

/-- A class of binary16 is a range of magnitudes: exponent and fraction are the two digits of the magnitude. -/
theorem class16_eq_iff_range (h : Half) (c : FloatClass) :
    class16 h = c ↔ c.range16.1 ≤ (mag16 h).toNat ∧ (mag16 h).toNat < c.range16.2 := by
  cases c
  all_goals
    simp only [class16_zero_iff, class16_subnormal_iff, class16_normal_iff, class16_infinity_iff, class16_nan_iff,
      exp16_toNat, frac16_toNat, mag16_toNat, FloatClass.range16]
    omega

/-- A class of binary32 is a range of magnitudes: exponent and fraction are the two digits of the magnitude. -/
theorem class32_eq_iff_range (s : Single) (c : FloatClass) :
    class32 s = c ↔ c.range32.1 ≤ (mag32 s).toNat ∧ (mag32 s).toNat < c.range32.2 := by
  cases c
  all_goals
    simp only [class32_zero_iff, class32_subnormal_iff, class32_normal_iff, class32_infinity_iff, class32_nan_iff,
      exp32_toNat, frac32_toNat, mag32_toNat, FloatClass.range32]
    omega

/-- A finite pattern has neither of the two classes whose exponent is all ones (R34). -/
theorem FloatClass.isFinite_iff (c : FloatClass) : c.isFinite = true ↔ ¬ (c = .nan ∨ c = .infinity) := by
  cases c <;> decide

/-! ### How many patterns have their magnitude in a range -/

theorem count_of_range {p : Nat → Prop} [DecidablePred p] {lo hi n : Nat} (hn : hi ≤ n)
    (hp : ∀ k < n, (p k ↔ lo ≤ k ∧ k < hi)) : Nat.count p n = hi - lo := by
  rw [Nat.count_eq_card_filter_range, ← Nat.card_Ico]
  congr 1
  ext k
  rw [Finset.mem_filter, Finset.mem_range, Finset.mem_Ico]
  constructor
  · exact fun ⟨hk, hpk⟩ => (hp k hk).mp hpk
  · exact fun hk => ⟨by omega, (hp k (by omega)).mpr hk⟩

/-- Of the `2 * m` patterns over `m` magnitudes, each magnitude occurs with both signs. -/
theorem count_of_magnitude_range {p : Nat → Prop} [DecidablePred p] {lo hi m : Nat} (hm : hi ≤ m)
    (hp : ∀ n, p n ↔ lo ≤ n % m ∧ n % m < hi) : Nat.count p (2 * m) = 2 * (hi - lo) := by
  have positive : Nat.count p m = hi - lo :=
    count_of_range hm fun k hk => by rw [hp, Nat.mod_eq_of_lt hk]
  have negative : Nat.count (fun k => p (m + k)) m = hi - lo :=
    count_of_range hm fun k hk => by rw [hp, Nat.add_mod_left, Nat.mod_eq_of_lt hk]
  rw [two_mul, Nat.count_add, positive, negative, two_mul]

theorem mag16_ofNat_toNat (n : Nat) : (mag16 (BitVec.ofNat 16 n)).toNat = n % 2 ^ 15 := by
  rw [mag16_toNat, BitVec.toNat_ofNat, Nat.mod_mod_of_dvd n (Nat.pow_dvd_pow 2 (by decide))]

theorem mag32_ofNat_toNat (n : Nat) : (mag32 (BitVec.ofNat 32 n)).toNat = n % 2 ^ 31 := by
  rw [mag32_toNat, BitVec.toNat_ofNat, Nat.mod_mod_of_dvd n (Nat.pow_dvd_pow 2 (by decide))]

theorem count_class16 (c : FloatClass) :
    Nat.count (fun n => class16 (BitVec.ofNat 16 n) = c) (2 * 2 ^ 15) = 2 * (c.range16.2 - c.range16.1) :=
  count_of_magnitude_range (by cases c <;> decide) fun n => by rw [class16_eq_iff_range, mag16_ofNat_toNat]

theorem count_class32 (c : FloatClass) :
    Nat.count (fun n => class32 (BitVec.ofNat 32 n) = c) (2 * 2 ^ 31) = 2 * (c.range32.2 - c.range32.1) :=
  count_of_magnitude_range (by cases c <;> decide) fun n => by rw [class32_eq_iff_range, mag32_ofNat_toNat]

/-- The conditions on the fields in the table of R34. -/
theorem class16_iff_fields (h : Half) :
    (class16 h = .zero ↔ exp16 h = 0#5 ∧ frac16 h = 0#10) ∧
    (class16 h = .subnormal ↔ exp16 h = 0#5 ∧ frac16 h ≠ 0#10) ∧
    (class16 h = .normal ↔ 1 ≤ (exp16 h).toNat ∧ (exp16 h).toNat ≤ 30) ∧
    (class16 h = .infinity ↔ exp16 h = 0x1F#5 ∧ frac16 h = 0#10) ∧
    (class16 h = .nan ↔ exp16 h = 0x1F#5 ∧ frac16 h ≠ 0#10) := by
  have hexp := (exp16 h).isLt
  simp only [class16_zero_iff, class16_subnormal_iff, class16_normal_iff, class16_infinity_iff, class16_nan_iff,
    ne_eq, ← BitVec.toNat_inj, BitVec.toNat_ofNat, true_and, and_true]
  omega

/-- The tests on the raw pattern in the table of R34. -/
theorem class16_iff_magnitude (h : Half) :
    (class16 h = .zero ↔ mag16 h = 0x0000#16) ∧
    (class16 h = .subnormal ↔ 0x0001#16 ≤ mag16 h ∧ mag16 h ≤ 0x03FF#16) ∧
    (class16 h = .normal ↔ 0x0400#16 ≤ mag16 h ∧ mag16 h ≤ 0x7BFF#16) ∧
    (class16 h = .infinity ↔ mag16 h = 0x7C00#16) ∧
    (class16 h = .nan ↔ mag16 h > 0x7C00#16) := by
  have hmag : (mag16 h).toNat < 2 ^ 15 := by
    rw [mag16_toNat]
    exact Nat.mod_lt _ (by decide)
  simp only [class16_eq_iff_range, FloatClass.range16, gt_iff_lt, BitVec.le_def, BitVec.lt_def, ← BitVec.toNat_inj,
    BitVec.toNat_ofNat]
  omega

/-- The conditions on the fields in the table of R35. -/
theorem class32_iff_fields (s : Single) :
    (class32 s = .zero ↔ exp32 s = 0#8 ∧ frac32 s = 0#23) ∧
    (class32 s = .subnormal ↔ exp32 s = 0#8 ∧ frac32 s ≠ 0#23) ∧
    (class32 s = .normal ↔ 1 ≤ (exp32 s).toNat ∧ (exp32 s).toNat ≤ 254) ∧
    (class32 s = .infinity ↔ exp32 s = 0xFF#8 ∧ frac32 s = 0#23) ∧
    (class32 s = .nan ↔ exp32 s = 0xFF#8 ∧ frac32 s ≠ 0#23) := by
  have hexp := (exp32 s).isLt
  simp only [class32_zero_iff, class32_subnormal_iff, class32_normal_iff, class32_infinity_iff, class32_nan_iff,
    ne_eq, ← BitVec.toNat_inj, BitVec.toNat_ofNat, true_and, and_true]
  omega

/-- The tests on the raw pattern in the table of R35. -/
theorem class32_iff_magnitude (s : Single) :
    (class32 s = .zero ↔ mag32 s = 0#32) ∧
    (class32 s = .subnormal ↔ 1#32 ≤ mag32 s ∧ mag32 s ≤ 0x007FFFFF#32) ∧
    (class32 s = .normal ↔ 0x00800000#32 ≤ mag32 s ∧ mag32 s ≤ 0x7F7FFFFF#32) ∧
    (class32 s = .infinity ↔ mag32 s = 0x7F800000#32) ∧
    (class32 s = .nan ↔ mag32 s > 0x7F800000#32) := by
  have hmag : (mag32 s).toNat < 2 ^ 31 := by
    rw [mag32_toNat]
    exact Nat.mod_lt _ (by decide)
  simp only [class32_eq_iff_range, FloatClass.range32, gt_iff_lt, BitVec.le_def, BitVec.lt_def, ← BitVec.toNat_inj,
    BitVec.toNat_ofNat]
  omega

/-- The one test for a finite pattern in R34: the exponent field is not all ones. -/
theorem class16_isFinite_iff (h : Half) : (class16 h).isFinite = true ↔ h &&& 0x7C00#16 ≠ 0x7C00#16 := by
  have hexp := exp16_toNat h
  rw [FloatClass.isFinite_iff, class16_nan_iff, class16_infinity_iff, ne_eq (h &&& _), ← BitVec.toNat_inj,
    toNat_and_fieldMask h 5 10 rfl, ← exp16_toNat, BitVec.toNat_ofNat]
  omega

/-- Settles O21: the fields are the digits of the magnitude, a class is a range of magnitudes, and a range holds twice
as many patterns as magnitudes. -/
theorem halfClasses : Obligations.HalfClasses :=
  ⟨fun h => ⟨class16_iff_fields h, class16_iff_magnitude h, class16_isFinite_iff h, FloatClass.isFinite_iff _⟩,
    count_class16 .zero, count_class16 .subnormal, count_class16 .normal, count_class16 .infinity, count_class16 .nan⟩

/-- Settles O22: as for binary16, with the magnitudes of binary32. -/
theorem singleClasses : Obligations.SingleClasses := by
  refine ⟨fun s => ?classes, count_class32 .zero, count_class32 .subnormal, count_class32 .normal,
    count_class32 .infinity, count_class32 .nan⟩
  obtain ⟨zero, subnormal, normal, infinity, nan⟩ := class32_iff_fields s
  exact ⟨zero, subnormal, normal, infinity, nan, class32_iff_magnitude s⟩

/-! ### Quiet and signaling NaNs -/

theorem isQuietNaN16_iff (h : Half) : isQuietNaN16 h = true ↔ class16 h = .nan ∧ h.getLsbD 9 = true := by
  rw [isQuietNaN16, Bool.and_eq_true, beq_iff_eq]

theorem isSignalingNaN16_iff (h : Half) : isSignalingNaN16 h = true ↔ class16 h = .nan ∧ h.getLsbD 9 = false := by
  rw [isSignalingNaN16, Bool.and_eq_true, beq_iff_eq, Bool.not_eq_true']

theorem isQuietNaN32_iff (s : Single) : isQuietNaN32 s = true ↔ class32 s = .nan ∧ s.getLsbD 22 = true := by
  rw [isQuietNaN32, Bool.and_eq_true, beq_iff_eq]

theorem isSignalingNaN32_iff (s : Single) :
    isSignalingNaN32 s = true ↔ class32 s = .nan ∧ s.getLsbD 22 = false := by
  rw [isSignalingNaN32, Bool.and_eq_true, beq_iff_eq, Bool.not_eq_true']

theorem getLsbD_eq_true_iff {w : Nat} (x : BitVec w) (i : Nat) :
    x.getLsbD i = true ↔ x.toNat / 2 ^ i % 2 = 1 := by
  rw [← BitVec.testBit_toNat, Nat.testBit_eq_decide_div_mod_eq, decide_eq_true_iff]

/-- A mask of one bit tests that bit. -/
theorem and_bitMask_eq_zero_iff {w : Nat} (x : BitVec w) {mask : BitVec w} (i : Nat)
    (hmask : mask.toNat = (2 ^ 1 - 1) <<< i) : x &&& mask = 0#w ↔ x.getLsbD i = false := by
  rw [← BitVec.toNat_inj, toNat_and_fieldMask x 1 i hmask, BitVec.toNat_ofNat, Nat.zero_mod, mul_eq_zero,
    or_iff_left (by positivity), ← Bool.not_eq_true, getLsbD_eq_true_iff]
  omega

/-- The quiet NaNs of binary16 are a range of magnitudes. -/
theorem isQuietNaN16_iff_range (h : Half) :
    isQuietNaN16 h = true ↔ 0x7E00 ≤ (mag16 h).toNat ∧ (mag16 h).toNat < 0x8000 := by
  rw [isQuietNaN16_iff, class16_eq_iff_range, getLsbD_eq_true_iff, mag16_toNat, FloatClass.range16]
  omega

/-- The signaling NaNs of binary16 are a range of magnitudes. -/
theorem isSignalingNaN16_iff_range (h : Half) :
    isSignalingNaN16 h = true ↔ 0x7C01 ≤ (mag16 h).toNat ∧ (mag16 h).toNat < 0x7E00 := by
  rw [isSignalingNaN16_iff, class16_eq_iff_range, ← Bool.not_eq_true, getLsbD_eq_true_iff, mag16_toNat,
    FloatClass.range16]
  omega

theorem count_isQuietNaN16 :
    Nat.count (fun n => isQuietNaN16 (BitVec.ofNat 16 n) = true) (2 * 2 ^ 15) = 2 * (0x8000 - 0x7E00) :=
  count_of_magnitude_range (by decide) fun n => by rw [isQuietNaN16_iff_range, mag16_ofNat_toNat]

theorem count_isSignalingNaN16 :
    Nat.count (fun n => isSignalingNaN16 (BitVec.ofNat 16 n) = true) (2 * 2 ^ 15) = 2 * (0x7E00 - 0x7C01) :=
  count_of_magnitude_range (by decide) fun n => by rw [isSignalingNaN16_iff_range, mag16_ofNat_toNat]

/-- With its quiet bit clear, the fraction of a NaN is its payload (R36). -/
theorem payload16_ne_zero_of_signaling {h : Half} (hs : isSignalingNaN16 h = true) : payload16 h ≠ 0#9 := by
  rw [isSignalingNaN16_iff_range, mag16_toNat] at hs
  rw [ne_eq, ← BitVec.toNat_inj, payload16, BitVec.extractLsb'_toNat, Nat.shiftRight_zero, BitVec.toNat_ofNat]
  omega

/-- With its quiet bit clear, the fraction of a NaN is its payload (R36). -/
theorem payload32_ne_zero_of_signaling {s : Single} (hs : isSignalingNaN32 s = true) : payload32 s ≠ 0#22 := by
  rw [isSignalingNaN32_iff, class32_eq_iff_range, ← Bool.not_eq_true, getLsbD_eq_true_iff, mag32_toNat,
    FloatClass.range32] at hs
  rw [ne_eq, ← BitVec.toNat_inj, payload32, BitVec.extractLsb'_toNat, Nat.shiftRight_zero, BitVec.toNat_ofNat]
  omega

/-- Settles O23: the mask of one bit is the test of the quiet bit, and the NaNs of binary16 of either kind are a range
of magnitudes. -/
theorem quietAndSignalingNaNs : Obligations.QuietAndSignalingNaNs := by
  refine ⟨fun h => ⟨?quiet16, ?signaling16, payload16_ne_zero_of_signaling⟩,
    fun s => ⟨?quiet32, ?signaling32, payload32_ne_zero_of_signaling⟩, count_isQuietNaN16, count_isSignalingNaN16⟩
  case quiet16 => rw [isQuietNaN16_iff, ne_eq, and_bitMask_eq_zero_iff h 9 rfl, Bool.not_eq_false]
  case signaling16 => rw [isSignalingNaN16_iff, and_bitMask_eq_zero_iff h 9 rfl]
  case quiet32 => rw [isQuietNaN32_iff, ne_eq, and_bitMask_eq_zero_iff s 22 rfl, Bool.not_eq_false]
  case signaling32 => rw [isSignalingNaN32_iff, and_bitMask_eq_zero_iff s 22 rfl]

end Sys2Proof.Machine

/-! ### Programs: names, meanings and runs (spec/30_encoding.md R42, R43) -/

namespace Sys2Proof.Machine

/-- The scope of an environment gives a name the operation of its binding. -/
theorem lookup_envScope (n : Name) (env : Env) :
    (envScope env).lookup n = (lookupName n env).map Binding.kind := by
  induction env with
  | nil => rfl
  | cons b rest ih =>
    rw [envScope, List.map_cons, List.lookup_cons, ← envScope, ih, lookupName]
    by_cases hn : b.name = n
    · simp [hn]
    · simp [hn, beq_eq_false_iff_ne.mpr (Ne.symm hn)]

theorem responseOf_eq_ok_iff {env : Env} {k : OpKind} {n : Name} {r : ResponseWord} :
    responseOf env k n = .ok r ↔ ∃ b, lookupName n env = some b ∧ b.kind = k ∧ b.response = r := by
  unfold responseOf
  cases lookupName n env with
  | none => simp
  | some b => by_cases hk : b.kind = k <;> simp [hk]

/-- A name stands for a response exactly when the scope has it with the wanted operation. -/
theorem lookup_envScope_eq_some_iff {env : Env} {k : OpKind} {n : Name} :
    (envScope env).lookup n = some k ↔ ∃ r, responseOf env k n = .ok r := by
  simp [lookup_envScope, responseOf_eq_ok_iff]

/-! #### Assembling a line -/

/-- A line is assembled from the binding of its operand name, if it has one, and from no other. -/
theorem assemble_congr {env env' : Env} {op : LineOp}
    (h : ∀ n, lineOperandName op = some n → lookupName n env = lookupName n env') :
    assemble env op = assemble env' op := by
  match op with
  | .widen (.literal _) | .narrow (.literal _) => rfl
  | .widen (.name n) | .narrow (.name n) => simp only [assemble, responseOf, h n rfl]

/-- A line can be assembled exactly when its operand is a literal or a name in scope (R42). -/
theorem operandInScope_iff_assemble {env : Env} {op : LineOp} :
    operandInScope (envScope env) op = true ↔ ∃ w, assemble env op = .ok w := by
  match op with
  | .widen (.literal _) | .narrow (.literal _) => simp [operandInScope, assemble]
  | .widen (.name n) =>
    rw [operandInScope, beq_iff_eq, lookup_envScope_eq_some_iff, assemble]
    cases responseOf env .narrow n <;> simp
  | .narrow (.name n) =>
    rw [operandInScope, beq_iff_eq, lookup_envScope_eq_some_iff, assemble]
    cases responseOf env .widen n <;> simp

/-- The operand name of a line that can be assembled is bound. -/
theorem lookupName_ne_none_of_assemble {env : Env} {op : LineOp} {w : RequestWord} {n : Name}
    (hw : assemble env op = .ok w) (hn : lineOperandName op = some n) : lookupName n env ≠ none := by
  have hscope := operandInScope_iff_assemble.mpr ⟨w, hw⟩
  intro hnone
  match op with
  | .widen (.literal _) | .narrow (.literal _) => simp [lineOperandName] at hn
  | .widen (.name m) | .narrow (.name m) =>
    obtain rfl : m = n := by simpa [lineOperandName] using hn
    simp [operandInScope, lookup_envScope, hnone] at hscope

/-! #### Binding a line's response -/

/-- What a line's binding is, if it can be made: nothing, or its name in front of an environment without that name. -/
theorem bindLine_eq_ok_iff {env env' : Env} {l : Line} {r : ResponseWord} :
    bindLine env l r = .ok env' ↔
      (l.name = none ∧ env' = env) ∨
      ∃ n, l.name = some n ∧ lookupName n env = none ∧ env' = ⟨n, lineKind l.op, r⟩ :: env := by
  unfold bindLine
  cases l.name with
  | none => simp [eq_comm]
  | some n => cases hn : lookupName n env <;> simp [hn, eq_comm]

/-- A line's response can be bound exactly when the line's name is fresh. -/
theorem bindLine_isOk_iff {env : Env} {l : Line} {r : ResponseWord} :
    (∃ env', bindLine env l r = .ok env') ↔ ∀ n, l.name = some n → lookupName n env = none := by
  simp only [bindLine_eq_ok_iff]
  cases l.name <;> simp

theorem nameIsFresh_iff_bindLine {env : Env} {l : Line} {r : ResponseWord} :
    nameIsFresh (envScope env) l.name = true ↔ ∃ env', bindLine env l r = .ok env' := by
  rw [bindLine_isOk_iff]
  cases l.name <;> simp [nameIsFresh, lookup_envScope]

/-- Binding a line's response gives the line's name that response, and leaves every other name alone. -/
theorem lookupName_bindLine {env env' : Env} {l : Line} {r : ResponseWord} (h : bindLine env l r = .ok env')
    (n : Name) : lookupName n env' = if l.name = some n then some ⟨n, lineKind l.op, r⟩ else lookupName n env := by
  obtain ⟨hname, rfl⟩ | ⟨m, hname, -, rfl⟩ := bindLine_eq_ok_iff.mp h
  · simp [hname]
  · rw [lookupName, hname]
    by_cases hm : m = n <;> simp [hm]

theorem envScope_bindLine {env env' : Env} {l : Line} {r : ResponseWord} (h : bindLine env l r = .ok env') :
    envScope env' = scopeAfter (envScope env) l := by
  obtain ⟨hname, rfl⟩ | ⟨n, hname, -, rfl⟩ := bindLine_eq_ok_iff.mp h <;> simp [scopeAfter, hname, envScope]

/-! #### The meaning of a program -/

/-- The meaning of a line and of the program after it. -/
theorem meaningFrom_cons_eq_ok_iff {env final : Env} {l : Line} {rest : Program} {rs : List ResponseWord} :
    meaningFrom env (l :: rest) = .ok (rs, final) ↔
      ∃ w env' rs', assemble env l.op = .ok w ∧ bindLine env l (resp w) = .ok env' ∧
        meaningFrom env' rest = .ok (rs', final) ∧ resp w :: rs' = rs := by
  rw [meaningFrom]
  cases assemble env l.op with
  | error => simp
  | ok w =>
    cases hb : bindLine env l (resp w) with
    | error => simp [hb]
    | ok env' => cases hm : meaningFrom env' rest <;> simp [hb, hm, Prod.ext_iff, and_comm]

theorem length_of_meaningFrom {env final : Env} {p : Program} {rs : List ResponseWord}
    (h : meaningFrom env p = .ok (rs, final)) : rs.length = p.length := by
  induction p generalizing env rs with
  | nil =>
    cases h
    rfl
  | cons l rest ih =>
    obtain ⟨w, env', rs', -, -, hrest, rfl⟩ := meaningFrom_cons_eq_ok_iff.mp h
    rw [List.length_cons, ih hrest, List.length_cons]

theorem scopedFrom_iff_meaningFrom (env : Env) (p : Program) :
    scopedFrom (envScope env) p = true ↔ ∃ rs final, meaningFrom env p = .ok (rs, final) := by
  induction p generalizing env with
  | nil => simp [scopedFrom, meaningFrom]
  | cons l rest ih =>
    rw [scopedFrom, Bool.and_eq_true, Bool.and_eq_true, operandInScope_iff_assemble]
    constructor
    · rintro ⟨⟨⟨w, hw⟩, hfresh⟩, hrest⟩
      obtain ⟨env', hb⟩ := nameIsFresh_iff_bindLine.mp hfresh
      rw [← envScope_bindLine hb, ih] at hrest
      obtain ⟨rs, final, hm⟩ := hrest
      exact ⟨_, final, meaningFrom_cons_eq_ok_iff.mpr ⟨w, env', rs, hw, hb, hm, rfl⟩⟩
    · rintro ⟨rs, final, h⟩
      obtain ⟨w, env', rs', hw, hb, hm, -⟩ := meaningFrom_cons_eq_ok_iff.mp h
      refine ⟨⟨⟨w, hw⟩, nameIsFresh_iff_bindLine.mpr ⟨env', hb⟩⟩, ?_⟩
      rw [← envScope_bindLine hb, ih]
      exact ⟨rs', final, hm⟩

/-- Settles O56: a line is in scope exactly when it can be assembled, its name fresh exactly when it can be bound, and
the scope after it is that of the environment after it. -/
theorem wellFormedProgramsHaveAMeaning : Obligations.WellFormedProgramsHaveAMeaning :=
  fun env p => ⟨scopedFrom_iff_meaningFrom env p, fun _ _ h => length_of_meaningFrom h⟩

/-! #### Carrying out a program on the block -/

/-- The host's run is the program's meaning, with some state of the interface at the end. -/
theorem runFrom_eq_map_meaningFrom (s : State) (env : Env) (p : Program) :
    ∃ t, runFrom s env p = (meaningFrom env p).map fun (rs, final) => (rs, final, t) := by
  induction p generalizing s env with
  | nil => exact ⟨s, rfl⟩
  | cons l rest ih =>
    cases hw : assemble env l.op with
    | error e => exact ⟨s, by simp only [runFrom, meaningFrom, hw, Except.map]⟩
    | ok w =>
      simp only [runFrom, meaningFrom, hw, step_eq_next_afterStep, afterStep_response, present_request]
      cases bindLine env l (resp w) with
      | error e => exact ⟨s, rfl⟩
      | ok env' =>
        obtain ⟨t, ht⟩ := ih (afterStep (s.present w)) env'
        refine ⟨t, ?_⟩
        simp only [ht]
        cases meaningFrom env' rest <;> rfl

/-- Settles O55: each step answers the line's word with `resp` of it, which is the response in the meaning. -/
theorem programRunIsItsMeaning : Obligations.ProgramRunIsItsMeaning := by
  intro s env p
  obtain ⟨t, ht⟩ := runFrom_eq_map_meaningFrom s env p
  refine ⟨fun e he => ?_, fun rs final hm => ⟨t, ?_⟩⟩
  · rw [ht, he, Except.map]
  · rw [ht, hm, Except.map]

/-! #### Swapping independent lines -/

/-- Two environments that give every name the same binding. -/
def SameNames (env env' : Env) : Prop := ∀ n, lookupName n env = lookupName n env'

/-- A program's responses depend on the bindings of names and not on the order in which they were made. -/
theorem meaningFrom_of_sameNames {env₁ env₂ final₁ : Env} {p : Program} {rs : List ResponseWord}
    (hsame : SameNames env₁ env₂) (h : meaningFrom env₁ p = .ok (rs, final₁)) :
    ∃ final₂, meaningFrom env₂ p = .ok (rs, final₂) ∧ SameNames final₁ final₂ := by
  induction p generalizing env₁ env₂ rs with
  | nil =>
    cases h
    exact ⟨env₂, rfl, hsame⟩
  | cons l rest ih =>
    obtain ⟨w, env₁', rs', hw, hb₁, hrest, rfl⟩ := meaningFrom_cons_eq_ok_iff.mp h
    have hw₂ : assemble env₂ l.op = .ok w := by rw [← hw, assemble_congr fun n _ => hsame n]
    obtain ⟨env₂', hb₂⟩ : ∃ env₂', bindLine env₂ l (resp w) = .ok env₂' :=
      bindLine_isOk_iff.mpr fun n hn => by rw [← hsame, bindLine_isOk_iff.mp ⟨env₁', hb₁⟩ n hn]
    have hsame' : SameNames env₁' env₂' := fun n => by
      rw [lookupName_bindLine hb₁, lookupName_bindLine hb₂, hsame]
    obtain ⟨final₂, hm, hfinal⟩ := ih hsame' hrest
    exact ⟨final₂, meaningFrom_cons_eq_ok_iff.mpr ⟨w, env₂', rs', hw₂, hb₂, hm, rfl⟩, hfinal⟩

/-- Settles O57: the second line is assembled and bound without the first one's name, the first one's operand is bound
before the second one's name is, and the two orders of binding give every name the same binding. -/
theorem independentLinesMayBeSwapped : Obligations.IndependentLinesMayBeSwapped := by
  intro env a b rest ra rb rs final hindep h
  obtain ⟨wa, envA, _, hwa, hbindA, h, hrs⟩ := meaningFrom_cons_eq_ok_iff.mp h
  obtain ⟨wb, envAB, rs', hwb, hbindB, hrest, rfl⟩ := meaningFrom_cons_eq_ok_iff.mp h
  obtain ⟨rfl, rfl, rfl⟩ : resp wa = ra ∧ resp wb = rb ∧ rs' = rs := by simpa using hrs
  have freshA : ∀ n, a.name = some n → lookupName n env = none := bindLine_isOk_iff.mp ⟨_, hbindA⟩
  have freshB : ∀ n, b.name = some n → a.name ≠ some n ∧ lookupName n env = none := fun n hn => by
    have hfresh := bindLine_isOk_iff.mp ⟨_, hbindB⟩ n hn
    rw [lookupName_bindLine hbindA] at hfresh
    split at hfresh
    · cases hfresh
    · next hne => exact ⟨hne, hfresh⟩
  have hwb' : assemble env b.op = .ok wb := by
    rw [← hwb, assemble_congr fun n hn => ?_]
    rw [lookupName_bindLine hbindA, if_neg (hindep n hn)]
  obtain ⟨envB, hbindB'⟩ : ∃ envB, bindLine env b (resp wb) = .ok envB :=
    bindLine_isOk_iff.mpr fun n hn => (freshB n hn).2
  have hwa' : assemble envB a.op = .ok wa := by
    rw [← hwa, assemble_congr fun n hn => ?_]
    rw [lookupName_bindLine hbindB', if_neg fun hbn => lookupName_ne_none_of_assemble hwa hn (freshB n hbn).2]
  obtain ⟨envBA, hbindA'⟩ : ∃ envBA, bindLine envB a (resp wa) = .ok envBA :=
    bindLine_isOk_iff.mpr fun n hn => by
      rw [lookupName_bindLine hbindB', if_neg fun hbn => (freshB n hbn).1 hn, freshA n hn]
  have hsame : SameNames envAB envBA := fun n => by
    rw [lookupName_bindLine hbindB, lookupName_bindLine hbindA, lookupName_bindLine hbindA',
      lookupName_bindLine hbindB']
    by_cases hbn : b.name = some n
    · simp [hbn, (freshB n hbn).1]
    · simp [hbn]
  obtain ⟨final', hm, hfinal⟩ := meaningFrom_of_sameNames hsame hrest
  exact ⟨final', meaningFrom_cons_eq_ok_iff.mpr ⟨wb, envB, _, hwb', hbindB',
    meaningFrom_cons_eq_ok_iff.mpr ⟨wa, envBA, rs', hwa', hbindA', hm, rfl⟩, rfl⟩, fun n => (hfinal n).symm⟩

end Sys2Proof.Machine

/-! ### The text of a line (spec/30_encoding.md R42) -/

namespace Sys2Proof.Machine

/-! #### Words -/

/-- A character that neither ends a word of a line nor starts a comment (R42). -/
def isWordChar (c : Char) : Bool := !isSpaceChar c && c != '=' && c != ';'

/-- A word of a line other than `=`. -/
def IsWord (w : List Char) : Prop := w ≠ [] ∧ ∀ c ∈ w, isWordChar c = true

theorem isWordChar_of_isIdentRest {c : Char} (hc : isIdentRest c = true) : isWordChar c = true := by
  by_contra hword
  have separator : c = ' ' ∨ c = '\t' ∨ c = '\r' ∨ c = '=' ∨ c = ';' := by
    simp only [isWordChar, isSpaceChar, Bool.and_eq_true, Bool.not_eq_true', Bool.or_eq_false_iff, bne_iff_ne,
      beq_eq_false_iff_ne] at hword
    tauto
  obtain rfl | rfl | rfl | rfl | rfl := separator <;> exact absurd hc (by decide)

theorem isIdentRest_of_isIdentStart {c : Char} (hc : isIdentStart c = true) : isIdentRest c = true := by
  simp only [isIdentStart, isIdentRest, Char.isAlphanum, Bool.or_eq_true] at hc ⊢
  tauto

theorem isWord_of_isIdentifier {n : Name} (hn : isIdentifier n = true) : IsWord n := by
  cases n with
  | nil => cases hn
  | cons c cs =>
    rw [isIdentifier, Bool.and_eq_true, List.all_eq_true] at hn
    obtain ⟨hc, hcs⟩ := hn
    refine ⟨List.cons_ne_nil c cs, List.forall_mem_cons.mpr ⟨?_, fun d hd => ?_⟩⟩
    · exact isWordChar_of_isIdentRest (isIdentRest_of_isIdentStart hc)
    · exact isWordChar_of_isIdentRest (hcs d hd)

/-- The characters of a word are read into the word begun before them. -/
theorem wordsFrom_append {w : List Char} (hw : ∀ c ∈ w, isWordChar c = true) (cur cs : List Char) :
    wordsFrom cur (w ++ cs) = wordsFrom (cur ++ w) cs := by
  induction w generalizing cur with
  | nil => rw [List.nil_append, List.append_nil]
  | cons c w ih =>
    obtain ⟨hc, hw⟩ := List.forall_mem_cons.mp hw
    simp only [isWordChar, Bool.and_eq_true, Bool.not_eq_true', bne_iff_ne] at hc
    obtain ⟨⟨hspace, hequals⟩, -⟩ := hc
    rw [List.cons_append, wordsFrom, if_neg (by simp [hspace]), if_neg hequals, ih hw, List.append_assoc,
      List.singleton_append]

theorem flushWord_of_ne_nil {w : List Char} (hw : w ≠ []) : flushWord w = [w] := by
  cases w with
  | nil => contradiction
  | cons => rfl

theorem wordsFrom_word {w : List Char} (hw : IsWord w) : wordsFrom [] w = [w] := by
  have := wordsFrom_append hw.2 [] []
  rwa [List.append_nil, List.nil_append, wordsFrom, flushWord_of_ne_nil hw.1] at this

theorem wordsFrom_word_space {w : List Char} (hw : IsWord w) (cs : List Char) :
    wordsFrom [] (w ++ ' ' :: cs) = w :: wordsFrom [] cs := by
  rw [wordsFrom_append hw.2, List.nil_append, wordsFrom, if_pos (by decide), flushWord_of_ne_nil hw.1,
    List.singleton_append]

theorem wordsFrom_equals_space (cs : List Char) : wordsFrom [] ('=' :: ' ' :: cs) = ['='] :: wordsFrom [] cs := rfl

theorem stripComment_eq_self {cs : List Char} (hcs : ∀ c ∈ cs, c ≠ ';') : stripComment cs = cs := by
  rw [stripComment, List.takeWhile_eq_self_iff]
  simpa using hcs

theorem IsWord.ne_semicolon {w : List Char} (hw : IsWord w) : ∀ c ∈ w, c ≠ ';' := by
  rintro c hc rfl
  exact absurd (hw.2 _ hc) (by decide)

/-! #### Operands -/

theorem length_hexDigits (k n : Nat) : (hexDigits k n).length = k := by
  induction k with
  | zero => rfl
  | succ k ih => rw [hexDigits, List.length_cons, ih]

theorem isWordChar_hexDigitChar : ∀ {d : Nat}, d < 16 → isWordChar (hexDigitChar d) = true := by
  decide

theorem isWordChar_of_mem_hexDigits {k n : Nat} : ∀ c ∈ hexDigits k n, isWordChar c = true := by
  induction k with
  | zero => exact List.forall_mem_nil _
  | succ k ih => exact List.forall_mem_cons.mpr ⟨isWordChar_hexDigitChar (Nat.mod_lt _ (by decide)), ih⟩

/-- The written digits read back as the number's lowest digits, after the digits read before them. -/
theorem hexValueFrom_hexDigits (acc k n : Nat) :
    hexValueFrom acc (hexDigits k n) = some (acc * 16 ^ k + n % 16 ^ k) := by
  induction k generalizing acc with
  | zero => simp [hexDigits, hexValueFrom, Nat.mod_one]
  | succ k ih =>
    have hdigit := hexDigitValue_hexDigitChar (d := n / 16 ^ k % 16) (Nat.mod_lt _ (by decide))
    simp only [hexDigits, hexValueFrom, hdigit, ih, Nat.mod_pow_succ]
    congr 1
    ring

theorem parseSource_literal (digits : Nat) (v : BitVec (4 * digits)) :
    parseSource digits ('0' :: 'x' :: hexDigits digits v.toNat) = some (.literal v) := by
  have hv : v.toNat % 16 ^ digits = v.toNat := by
    rw [show 16 ^ digits = 2 ^ (4 * digits) by rw [pow_mul]; rfl]
    exact Nat.mod_eq_of_lt v.isLt
  rw [parseSource, if_pos (length_hexDigits _ _), hexValueFrom_hexDigits, zero_mul, zero_add, hv, Option.map_some,
    BitVec.ofNat_toNat, BitVec.setWidth_eq]

theorem parseSource_identifier (digits : Nat) {n : Name} (hn : isIdentifier n = true) :
    parseSource digits n = some (.name n) := by
  unfold parseSource
  split
  · exact absurd hn (by simp [isIdentifier, isIdentStart])
  · rw [if_pos hn]

theorem parseSource_showSource {digits : Nat} {x : Source (4 * digits)}
    (hx : ∀ n, x = .name n → isIdentifier n = true) : parseSource digits (showSource digits x) = some x := by
  cases x with
  | literal v => exact parseSource_literal digits v
  | name n => exact parseSource_identifier digits (hx n rfl)

theorem isWord_showSource {digits : Nat} {x : Source (4 * digits)} (hx : ∀ n, x = .name n → isIdentifier n = true) :
    IsWord (showSource digits x) := by
  cases x with
  | literal v =>
    exact ⟨List.cons_ne_nil _ _,
      List.forall_mem_cons.mpr ⟨rfl, List.forall_mem_cons.mpr ⟨rfl, isWordChar_of_mem_hexDigits⟩⟩⟩
  | name n => exact isWord_of_isIdentifier (hx n rfl)

/-! #### Requests and lines -/

theorem isWord_widenMnemonic : IsWord widenMnemonic := ⟨by decide, List.all_eq_true.mp rfl⟩

theorem isWord_narrowMnemonic : IsWord narrowMnemonic := ⟨by decide, List.all_eq_true.mp rfl⟩

/-- The text of a request is two words that read back as the request. -/
theorem showRequest_eq_words {op : LineOp} (hop : ∀ n, lineOperandName op = some n → isIdentifier n = true) :
    ∃ m x, showRequest op = m ++ ' ' :: x ∧ IsWord m ∧ IsWord x ∧ parseRequest m x = some op := by
  cases op with
  | widen x =>
    have hx : ∀ n, x = .name n → isIdentifier n = true := by
      rintro n rfl
      exact hop n rfl
    refine ⟨_, _, rfl, isWord_widenMnemonic, isWord_showSource (digits := 4) hx, ?_⟩
    rw [parseRequest, if_pos rfl, parseSource_showSource (digits := 4) hx, Option.map_some]
  | narrow x =>
    have hx : ∀ n, x = .name n → isIdentifier n = true := by
      rintro n rfl
      exact hop n rfl
    refine ⟨_, _, rfl, isWord_narrowMnemonic, isWord_showSource (digits := 8) hx, ?_⟩
    rw [parseRequest, if_neg (by decide), if_pos rfl, parseSource_showSource (digits := 8) hx, Option.map_some]

theorem parseLine_request {m x : List Char} {op : LineOp} (hm : IsWord m) (hx : IsWord x)
    (hop : parseRequest m x = some op) : parseLine (m ++ ' ' :: x) = some (some ⟨none, op⟩) := by
  have hstrip : stripComment (m ++ ' ' :: x) = m ++ ' ' :: x := stripComment_eq_self <|
    List.forall_mem_append.mpr ⟨hm.ne_semicolon, List.forall_mem_cons.mpr ⟨by decide, hx.ne_semicolon⟩⟩
  simp only [parseLine, hstrip, wordsFrom_word_space hm, wordsFrom_word hx, hop, Option.map_some]

theorem parseLine_named_request {n : Name} {m x : List Char} {op : LineOp} (hn : isIdentifier n = true)
    (hm : IsWord m) (hx : IsWord x) (hop : parseRequest m x = some op) :
    parseLine (n ++ ' ' :: '=' :: ' ' :: (m ++ ' ' :: x)) = some (some ⟨some n, op⟩) := by
  have hword := isWord_of_isIdentifier hn
  have hstrip : stripComment (n ++ ' ' :: '=' :: ' ' :: (m ++ ' ' :: x)) = n ++ ' ' :: '=' :: ' ' :: (m ++ ' ' :: x) :=
    stripComment_eq_self <| by
      simp only [List.forall_mem_append, List.forall_mem_cons]
      exact ⟨hword.ne_semicolon, by decide, by decide, by decide, hm.ne_semicolon, by decide, hx.ne_semicolon⟩
  simp only [parseLine, hstrip, wordsFrom_word_space hword, wordsFrom_equals_space, wordsFrom_word_space hm,
    wordsFrom_word hx, if_pos hn, hop, Option.map_some]

/-- Settles O59: the words of a line's text are its name, `=`, its mnemonic and its operand, since none of them holds a
space, an `=` or a `;`; and an operand reads back because its digits do, or because no identifier begins like a
literal. -/
theorem lineTextReadsBack : Obligations.LineTextReadsBack := by
  rintro ⟨name, op⟩ hl
  rw [lineNamesOk, Bool.and_eq_true] at hl
  obtain ⟨hname, hoperand⟩ := hl
  obtain ⟨m, x, hshow, hm, hx, hparse⟩ := showRequest_eq_words (op := op) fun n hn => by simpa [hn] using hoperand
  rw [showLine, hshow]
  cases name with
  | none => exact parseLine_request hm hx hparse
  | some n => exact parseLine_named_request hname hm hx hparse

end Sys2Proof.Machine

/-! ### The form of a response (spec/30_encoding.md R40, spec/40_widen.md R57, spec/41_narrow.md R71) -/

namespace Sys2Proof.Machine

/-- A field below another one: the two are added when they are put together. -/
theorem toNat_or_of_lt {w : Nat} {x y : BitVec w} {k a : Nat} (hx : x.toNat = 2 ^ k * a) (hy : y.toNat < 2 ^ k) :
    (x ||| y).toNat = 2 ^ k * a + y.toNat := by
  rw [BitVec.toNat_or, hx, Nat.two_pow_add_eq_or_of_lt hy]

/-- A field shifted to its place, where it fits. -/
theorem toNat_shiftLeft_of_lt {w : Nat} {x : BitVec w} {k : Nat} (hx : 2 ^ k * x.toNat < 2 ^ w) :
    (x <<< k).toNat = 2 ^ k * x.toNat := by
  rw [BitVec.toNat_shiftLeft, Nat.shiftLeft_eq, mul_comm, Nat.mod_eq_of_lt hx]

/-! #### WIDEN -/

/-- The cases of R50, by the class of the operand. -/
theorem widen_cases (h : Half) :
    (class16 h = .infinity ∧ widen h = widenSign h ||| widenInf) ∨
    (class16 h = .nan ∧ widen h = widenSign h ||| widenNan (frac16 h)) ∨
    (class16 h = .zero ∧ widen h = widenSign h) ∨
    (class16 h = .subnormal ∧ widen h = widenSign h ||| widenSub (frac16 h)) ∨
    (class16 h = .normal ∧ widen h = widenSign h ||| widenNorm (exp16 h) (frac16 h)) := by
  obtain ⟨zero, subnormal, -, infinity, nan⟩ := class16_iff_fields h
  cases hc : class16 h with
  | zero =>
    obtain ⟨he, hf⟩ := zero.mp hc
    simp [widen, he, hf]
  | subnormal =>
    obtain ⟨he, hf⟩ := subnormal.mp hc
    simp [widen, he, hf]
  | normal =>
    have hzero : exp16 h ≠ 0#5 := fun he => by simp [class16_normal_iff, he] at hc
    have hones : exp16 h ≠ 0x1F#5 := fun he => by simp [class16_normal_iff, he] at hc
    simp [widen, hzero, hones]
  | infinity =>
    obtain ⟨he, hf⟩ := infinity.mp hc
    simp [widen, he, hf]
  | nan =>
    obtain ⟨he, hf⟩ := nan.mp hc
    simp [widen, he, hf]

theorem widenSign_toNat (h : Half) : (widenSign h).toNat = 2 ^ 31 * (sign16 h).toNat := by
  have := (sign16 h).isLt
  have hs : ((sign16 h).setWidth 32).toNat = (sign16 h).toNat := BitVec.toNat_setWidth_of_le (by decide)
  rw [widenSign, toNat_shiftLeft_of_lt (by omega), hs]

/-- The fraction of a binary16 pattern, left-aligned in the wider field (R53, R56). -/
theorem leftAligned_toNat (f : BitVec 10) :
    (f.setWidth 32 <<< Config.fracShift : Single).toNat = 2 ^ 13 * f.toNat := by
  have := f.isLt
  have hf : (f.setWidth 32).toNat = f.toNat := BitVec.toNat_setWidth_of_le (by decide)
  have hk : Config.fracShift = 13 := rfl
  rw [hk, toNat_shiftLeft_of_lt (by omega), hf]

theorem widenNan_toNat (f : BitVec 10) : (widenNan f).toNat = 2 ^ 23 * 255 + 2 ^ 13 * f.toNat := by
  have := f.isLt
  have hf := leftAligned_toNat f
  rw [widenNan, toNat_or_of_lt (k := 23) (a := 255) rfl (by omega), hf]

theorem exponent_toNat {e : Nat} (he : e < 256) : (BitVec.ofNat 32 e <<< 23).toNat = 2 ^ 23 * e := by
  have hn : (BitVec.ofNat 32 e).toNat = e := Nat.mod_eq_of_lt (by omega)
  rw [toNat_shiftLeft_of_lt (by omega), hn]

theorem widenNorm_toNat (e : BitVec 5) (f : BitVec 10) :
    (widenNorm e f).toNat = 2 ^ 23 * (e.toNat + 112) + 2 ^ 13 * f.toNat := by
  have he := e.isLt
  have := f.isLt
  have hf := leftAligned_toNat f
  have hr : Config.rebias = 112 := rfl
  rw [widenNorm, hr, toNat_or_of_lt (exponent_toNat (by omega)) (by omega), hf]

/-- The leading 1 of a fraction of ten bits is at position 9 or lower (R55). -/
theorem msbIndex_frac16_le (f : BitVec 10) : msbIndex f.toNat ≤ 9 := by
  have hf := f.isLt
  rw [msbIndex, Nat.log2_eq_log_two]
  exact Nat.lt_succ_iff.mp (Nat.log_lt_of_lt_pow' (by decide) hf)

theorem widenSub_toNat (f : BitVec 10) :
    (widenSub f).toNat = 2 ^ 23 * (103 + msbIndex f.toNat) + 2 ^ (23 - msbIndex f.toNat) * f.toNat % 2 ^ 23 := by
  have hp := msbIndex_frac16_le f
  have hf : (f.setWidth 32).toNat = f.toNat := BitVec.toNat_setWidth_of_le (by decide)
  have hfrac : (f.setWidth 32 <<< (23 - msbIndex f.toNat) &&& 0x007FFFFF#32).toNat =
      2 ^ (23 - msbIndex f.toNat) * f.toNat % 2 ^ 23 := by
    rw [toNat_and_fieldMask _ 23 0 rfl, BitVec.toNat_shiftLeft, hf, Nat.shiftLeft_eq, pow_zero, Nat.div_one, mul_one,
      Nat.mod_mod_of_dvd _ (Nat.pow_dvd_pow 2 (by decide)), mul_comm]
  rw [widenSub, toNat_or_of_lt (exponent_toNat (by omega)) (by omega), hfrac]

/-- What stands under the sign in a WIDEN result: a multiple of `2^13`, which is zero or has a non-zero exponent
field. -/
theorem widen_eq_sign_or_magnitude (h : Half) :
    ∃ m : Single, widen h = widenSign h ||| m ∧ m.toNat < 2 ^ 31 ∧ 2 ^ 13 ∣ m.toNat ∧
      (m.toNat = 0 ∨ 2 ^ 23 ≤ m.toNat) := by
  have hf := (frac16 h).isLt
  obtain ⟨-, hw⟩ | ⟨-, hw⟩ | ⟨-, hw⟩ | ⟨-, hw⟩ | ⟨-, hw⟩ := widen_cases h
  · exact ⟨widenInf, hw, by decide⟩
  · refine ⟨_, hw, ?_⟩
    rw [widenNan_toNat]
    omega
  · exact ⟨0#32, by rw [hw, BitVec.or_zero], by decide⟩
  · have hp := msbIndex_frac16_le (frac16 h)
    have hshift : 2 ^ 13 ∣ 2 ^ (23 - msbIndex (frac16 h).toNat) * (frac16 h).toNat :=
      (Nat.pow_dvd_pow 2 (by omega)).mul_right _
    refine ⟨_, hw, ?_⟩
    rw [widenSub_toNat]
    omega
  · have he := (exp16 h).isLt
    refine ⟨_, hw, ?_⟩
    rw [widenNorm_toNat]
    omega

/-- R57 on a WIDEN result: thirteen low bits zero, and no binary32 subnormal. -/
theorem widen_form (h : Half) : (widen h).extractLsb' 0 13 = 0#13 ∧ class32 (widen h) ≠ .subnormal := by
  obtain ⟨m, hw, hlt, hdvd, hzero⟩ := widen_eq_sign_or_magnitude h
  have hn : (widen h).toNat = 2 ^ 31 * (sign16 h).toNat + m.toNat := by
    rw [hw, toNat_or_of_lt (widenSign_toNat h) hlt]
  constructor
  · rw [← BitVec.toNat_inj, BitVec.extractLsb'_toNat, Nat.shiftRight_zero, hn, BitVec.toNat_ofNat]
    omega
  · rw [ne_eq, class32_eq_iff_range, mag32_toNat, hn, FloatClass.range32]
    omega

/-! #### NARROW -/

theorem narrowSign_toNat (x : Single) : (narrowSign x).toNat = 2 ^ 15 * (sign32 x).toNat := by
  have := (sign32 x).isLt
  have hs : ((sign32 x).setWidth 16).toNat = (sign32 x).toNat := BitVec.toNat_setWidth_of_le (by decide)
  rw [narrowSign, toNat_shiftLeft_of_lt (by omega), hs]

/-- The top ten fraction bits of a binary32 pattern, where R63 and R68 put them. -/
theorem topFraction_toNat (F : BitVec 23) :
    ((F.extractLsb' 13 10).setWidth 16 : Half).toNat = F.toNat / 2 ^ 13 := by
  have := F.isLt
  rw [BitVec.toNat_setWidth_of_le (by decide), BitVec.extractLsb'_toNat, Nat.shiftRight_eq_div_pow]
  omega

/-- A NaN result is quiet, under either sign (R63). -/
theorem narrowNan_range (F : BitVec 23) : 0x7E00 ≤ (narrowNan F).toNat ∧ (narrowNan F).toNat < 2 ^ 15 := by
  have := F.isLt
  have hF := topFraction_toNat F
  rw [narrowNan, BitVec.toNat_or, hF]
  exact ⟨Nat.left_le_or, Nat.or_lt_two_pow (by decide) (by omega)⟩

/-- The subnormal range reaches the smallest normal pattern at most (R67). -/
theorem narrowSub_le {he : Int} (h : he ≤ 0) (F : BitVec 23) : narrowSub he F ≤ 0x400 := by
  have hF := F.isLt
  have hsig : 0x800000 ||| F.toNat < 2 ^ 24 := Nat.or_lt_two_pow (by decide) (by omega)
  have hkept : (0x800000 ||| F.toNat) >>> (14 - he).toNat < 0x400 := by
    rw [Nat.shiftRight_eq_div_pow]
    refine Nat.div_lt_of_lt_mul (hsig.trans_le ?_)
    calc 2 ^ 24 = 2 ^ 14 * 0x400 := rfl
      _ ≤ 2 ^ (14 - he).toNat * 0x400 := Nat.mul_le_mul_right _ (Nat.pow_le_pow_right (by decide) (by omega))
  unfold narrowSub
  dsimp only
  split <;> omega

/-- The result of the normal range as one number, incremented or not (R68, R69). -/
theorem narrowNorm_toNat (x : Single) {he : Int} (h1 : 1 ≤ he) (h30 : he ≤ 30) (F : BitVec 23) :
    ∃ up ≤ 1, (narrowNorm (narrowSign x) he F).toNat =
      2 ^ 15 * (sign32 x).toNat + (2 ^ 10 * he.toNat + F.toNat / 2 ^ 13 + up) := by
  have hs := (sign32 x).isLt
  have hF := F.isLt
  have htop := topFraction_toNat F
  have hexp : (BitVec.ofNat 16 he.toNat <<< 10).toNat = 2 ^ 10 * he.toNat := by
    have hn : (BitVec.ofNat 16 he.toNat).toNat = he.toNat := Nat.mod_eq_of_lt (by omega)
    rw [toNat_shiftLeft_of_lt (by omega), hn]
  have hupper : (narrowSign x ||| BitVec.ofNat 16 he.toNat <<< 10).toNat =
      2 ^ 10 * (2 ^ 5 * (sign32 x).toNat + he.toNat) := by
    rw [toNat_or_of_lt (narrowSign_toNat x) (by omega), hexp]
    omega
  have hbase := toNat_or_of_lt hupper (y := (F.extractLsb' 13 10).setWidth 16) (by omega)
  unfold narrowNorm
  dsimp only
  split
  · refine ⟨1, le_rfl, ?_⟩
    rw [BitVec.toNat_add, hbase, htop, BitVec.toNat_ofNat]
    omega
  · refine ⟨0, by decide, ?_⟩
    rw [hbase, htop]
    omega

/-- The cases of R60, the two that give infinity as one, with the ranges of `he` in which they apply. -/
theorem narrow_cases (x : Single) :
    ((class32 x = .infinity ∨ halfExponent x ≥ 31) ∧ narrow x = narrowSign x ||| narrowInf) ∨
    (class32 x = .nan ∧ narrow x = narrowSign x ||| narrowNan (frac32 x)) ∨
    (halfExponent x < -10 ∧ narrow x = narrowSign x) ∨
    (-10 ≤ halfExponent x ∧ halfExponent x ≤ 0 ∧
      narrow x = narrowSign x + BitVec.ofNat 16 (narrowSub (halfExponent x) (frac32 x))) ∨
    (1 ≤ halfExponent x ∧ halfExponent x ≤ 30 ∧
      narrow x = narrowNorm (narrowSign x) (halfExponent x) (frac32 x)) := by
  have hfrac : frac32 x = 0#23 ↔ (frac32 x).toNat = 0 := BitVec.toNat_inj.symm
  rw [class32_infinity_iff, class32_nan_iff, ← hfrac]
  unfold narrow
  dsimp only
  split_ifs with hinf hones hover hunder hsub
  · exact .inl ⟨.inl hinf, rfl⟩
  · exact .inr (.inl ⟨⟨hones, fun hf => hinf ⟨hones, hfrac.mpr hf⟩⟩, rfl⟩)
  · exact .inl ⟨.inr hover, rfl⟩
  · exact .inr (.inr (.inl ⟨hunder, rfl⟩))
  · exact .inr (.inr (.inr (.inl ⟨by omega, hsub, rfl⟩)))
  · exact .inr (.inr (.inr (.inr ⟨by omega, by omega, rfl⟩)))

/-- What stands under the sign in a NARROW result: at most infinity, or a quiet NaN. -/
theorem narrow_toNat_eq_sign_add (x : Single) :
    ∃ m, (narrow x).toNat = 2 ^ 15 * (sign32 x).toNat + m ∧ m < 2 ^ 15 ∧ (m ≤ 0x7C00 ∨ 0x7E00 ≤ m) := by
  have hs := (sign32 x).isLt
  have hsign := narrowSign_toNat x
  obtain ⟨-, hn⟩ | ⟨-, hn⟩ | ⟨-, hn⟩ | ⟨-, hhe, hn⟩ | ⟨h1, h30, hn⟩ := narrow_cases x
  all_goals rw [hn]
  · exact ⟨0x7C00, toNat_or_of_lt hsign (by decide), by decide⟩
  · obtain ⟨hquiet, hlt⟩ := narrowNan_range (frac32 x)
    exact ⟨_, toNat_or_of_lt hsign hlt, hlt, .inr hquiet⟩
  · exact ⟨0, hsign, by decide⟩
  · have hm := narrowSub_le hhe (frac32 x)
    refine ⟨narrowSub (halfExponent x) (frac32 x), ?_, by omega, by omega⟩
    rw [BitVec.toNat_add, hsign, BitVec.toNat_ofNat]
    omega
  · have hF := (frac32 x).isLt
    obtain ⟨up, hup, hn⟩ := narrowNorm_toNat x h1 h30 (frac32 x)
    exact ⟨_, hn, by omega, by omega⟩

/-- R71 on a NARROW result: it is no signaling NaN. -/
theorem isSignalingNaN16_narrow (x : Single) : isSignalingNaN16 (narrow x) = false := by
  obtain ⟨m, hn, hlt, hm⟩ := narrow_toNat_eq_sign_add x
  rw [← Bool.not_eq_true, isSignalingNaN16_iff_range, mag16_toNat, hn]
  omega

/-! #### Every step -/

theorem settled_afterStep (s : State) : Settled (afterStep s) := by
  refine ⟨by rw [afterStep_response, afterStep_request], fun hw => ?_, fun hw => ?_⟩
  all_goals rw [afterStep_request] at hw ⊢
  · rw [afterStep, decode_of_opField_eq_zero ((opField_eq_zero_iff _).mpr hw)]
    exact dataField_operand16 _
  · rw [afterStep, decode_of_opField_ne_zero (by rw [ne_eq, opField_eq_zero_iff, hw]; decide)]
    rfl

theorem responseForm_afterStep (s : State) : ResponseForm (afterStep s) := by
  refine ⟨fun hw => ?_, fun hw => ?_⟩
  all_goals
    rw [afterStep_request] at hw
    rw [afterStep_response]
  · rw [resp_of_widen hw]
    exact widen_form _
  · rw [resp_of_narrow hw, setWidth_extractLsb'_low, setWidth_extractLsb'_high]
    exact ⟨rfl, isSignalingNaN16_narrow _⟩

/-- Settles O16: whatever stood on the interface before, a step leaves the operand of the request on its port and the
response of the request, which has the form of its operation. -/
theorem stepKeepsTheInterfaceSettled : Obligations.StepKeepsTheInterfaceSettled := by
  rintro s t - hstep
  obtain rfl : afterStep s = t := by simpa [step_eq_next_afterStep] using hstep
  exact ⟨settled_afterStep s, responseForm_afterStep s⟩

end Sys2Proof.Machine

/-! ### WIDEN by the class of its operand (spec/40_widen.md R50 to R57) -/

namespace Sys2Proof.Machine

/-! #### What a WIDEN request does and leaves alone (R40, R50) -/

@[simp] theorem afterExec_widen_widenIn (g : BitVec 16) (h : Half) (s : State) :
    (afterExec (.widen g h) s).widenIn = h := rfl

/-- Settles O10: the state after the request has the operand on its port, so both output ports are those of their input
ports, one driven and the other left alone. -/
theorem widenRequestResultAndFrame : Obligations.WidenRequestResultAndFrame := by
  intro g h s
  refine ⟨_, exec_eq_next_afterExec (.widen g h) s, ?_⟩
  simp [widenOut_eq, narrowOut_eq, instrResponse]

/-! #### The sign (R51) -/

/-- A WIDEN result as a number: the sign above 31 bits. -/
theorem widen_toNat_eq_sign_add (h : Half) :
    ∃ m, (widen h).toNat = 2 ^ 31 * (sign16 h).toNat + m ∧ m < 2 ^ 31 := by
  obtain ⟨m, hw, hlt, -⟩ := widen_eq_sign_or_magnitude h
  exact ⟨m.toNat, by rw [hw, toNat_or_of_lt (widenSign_toNat h) hlt], hlt⟩

@[simp] theorem sign32_widen (h : Half) : sign32 (widen h) = sign16 h := by
  obtain ⟨m, hn, hlt⟩ := widen_toNat_eq_sign_add h
  rw [← BitVec.toNat_inj, sign32_toNat, hn]
  omega

theorem getLsbD_15_eq_sign16 (h : Half) : h.getLsbD 15 = (sign16 h).getLsbD 0 := by simp [sign16]

theorem getLsbD_31_eq_sign32 (s : Single) : s.getLsbD 31 = (sign32 s).getLsbD 0 := by simp [sign32]

theorem widen_getLsbD_31 (h : Half) : (widen h).getLsbD 31 = h.getLsbD 15 := by
  rw [getLsbD_31_eq_sign32, sign32_widen, getLsbD_15_eq_sign16]

@[simp] theorem exp16_mag16 (h : Half) : exp16 (mag16 h) = exp16 h := by
  rw [← BitVec.toNat_inj, exp16_toNat, exp16_toNat, mag16_toNat]
  omega

@[simp] theorem frac16_mag16 (h : Half) : frac16 (mag16 h) = frac16 h := by
  rw [← BitVec.toNat_inj, frac16_toNat, frac16_toNat, mag16_toNat]
  omega

@[simp] theorem sign16_mag16 (h : Half) : sign16 (mag16 h) = 0#1 := by
  rw [← BitVec.toNat_inj, sign16_toNat, mag16_toNat, BitVec.toNat_ofNat]
  omega

@[simp] theorem widenSign_mag16 (h : Half) : widenSign (mag16 h) = 0#32 := by
  rw [widenSign, sign16_mag16]
  rfl

/-- The cases of R50 read the exponent and the fraction only, which the magnitude pattern keeps. -/
theorem widen_eq_sign_or_widen_mag16 (h : Half) : widen h = widenSign h ||| widen (mag16 h) := by
  simp only [widen, exp16_mag16, frac16_mag16, widenSign_mag16, BitVec.zero_or]
  split_ifs <;> simp

/-- Only the sign of a WIDEN result depends on the sign of the operand. -/
theorem widen_eq_pack32 (h : Half) :
    widen h = pack32 (sign16 h) (exp32 (widen (mag16 h))) (frac32 (widen (mag16 h))) := by
  obtain ⟨m, hm, hlt⟩ := widen_toNat_eq_sign_add (mag16 h)
  have hmag : (widen (mag16 h)).toNat < 2 ^ 31 := by simpa [hm] using hlt
  have hn : (widen h).toNat = 2 ^ 31 * (sign16 h).toNat + (widen (mag16 h)).toNat := by
    rw [widen_eq_sign_or_widen_mag16 h, toNat_or_of_lt (widenSign_toNat h) hmag]
  have hexp : exp32 (widen h) = exp32 (widen (mag16 h)) := by
    rw [← BitVec.toNat_inj, exp32_toNat, exp32_toNat, hn]
    omega
  have hfrac : frac32 (widen h) = frac32 (widen (mag16 h)) := by
    rw [← BitVec.toNat_inj, frac32_toNat, frac32_toNat, hn]
    omega
  rw [← hexp, ← hfrac, ← sign32_widen, pack32_fields]

theorem mag16_flipSign (h : Half) : mag16 (h ^^^ 0x8000#16) = mag16 h := by
  rw [← BitVec.toNat_inj, mag16_toNat, mag16_toNat, BitVec.toNat_xor, Nat.xor_mod_two_pow]
  exact Nat.xor_zero _

theorem sign16_flipSign (h : Half) : sign16 (h ^^^ 0x8000#16) = sign16 h ^^^ 1#1 := by
  rw [sign16, BitVec.extractLsb'_xor]
  rfl

theorem pack32_flipSign (sgn : BitVec 1) (e : BitVec 8) (f : BitVec 23) :
    pack32 (sgn ^^^ 1#1) e f = pack32 sgn e f ^^^ 0x80000000#32 := by
  have hbit : 0x80000000#32 = pack32 1#1 0#8 0#23 := by decide
  rw [hbit, pack32, pack32, pack32, BitVec.xor_append, BitVec.xor_append, BitVec.xor_zero, BitVec.xor_zero]

/-- Settles O24: the result is the operand's sign above two fields that are those of the operand's magnitude, and a
flipped sign leaves the magnitude. -/
theorem widenKeepsTheSign : Obligations.WidenKeepsTheSign := by
  intro h
  refine ⟨widen_getLsbD_31 h, ?_⟩
  rw [widen_eq_pack32 (h ^^^ _), mag16_flipSign, sign16_flipSign, pack32_flipSign, ← widen_eq_pack32]

/-! #### The fields of the result in each class (R52 to R56) -/

/-- The two fields of a result that is given as a sign above an exponent and a fraction. -/
theorem widen_fields_of_eq {h : Half} {m : Single} {E F : Nat} (hw : widen h = widenSign h ||| m)
    (hm : m.toNat = 2 ^ 23 * E + F) (hE : E < 2 ^ 8) (hF : F < 2 ^ 23) :
    (exp32 (widen h)).toNat = E ∧ (frac32 (widen h)).toNat = F := by
  have hn : (widen h).toNat = 2 ^ 31 * (sign16 h).toNat + m.toNat := by
    rw [hw, toNat_or_of_lt (widenSign_toNat h) (by omega)]
  rw [exp32_toNat, frac32_toNat, hn, hm]
  omega

theorem widen_fields_of_infinity {h : Half} (hc : class16 h = .infinity) :
    (exp32 (widen h)).toNat = 255 ∧ (frac32 (widen h)).toNat = 0 := by
  have hw : widen h = widenSign h ||| widenInf := by simpa [hc] using widen_cases h
  exact widen_fields_of_eq hw rfl (by decide) (by decide)

theorem widen_fields_of_nan {h : Half} (hc : class16 h = .nan) :
    (exp32 (widen h)).toNat = 255 ∧ (frac32 (widen h)).toNat = 2 ^ 13 * (frac16 h).toNat := by
  have hw : widen h = widenSign h ||| widenNan (frac16 h) := by simpa [hc] using widen_cases h
  have hf := (frac16 h).isLt
  exact widen_fields_of_eq hw (widenNan_toNat _) (by decide) (by omega)

theorem widen_fields_of_zero {h : Half} (hc : class16 h = .zero) :
    (exp32 (widen h)).toNat = 0 ∧ (frac32 (widen h)).toNat = 0 := by
  have hw : widen h = widenSign h ||| 0#32 := by simpa [hc] using widen_cases h
  exact widen_fields_of_eq hw rfl (by decide) (by decide)

theorem widen_fields_of_normal {h : Half} (hc : class16 h = .normal) :
    (exp32 (widen h)).toNat = (exp16 h).toNat + 112 ∧ (frac32 (widen h)).toNat = 2 ^ 13 * (frac16 h).toNat := by
  have hw : widen h = widenSign h ||| widenNorm (exp16 h) (frac16 h) := by simpa [hc] using widen_cases h
  have he := (exp16 h).isLt
  have hf := (frac16 h).isLt
  exact widen_fields_of_eq hw (widenNorm_toNat _ _) (by omega) (by omega)

/-- `msb_index` is the position of the leading 1 (spec/00_scope.md section 5.1). -/
theorem msbIndex_spec {n : Nat} (hn : n ≠ 0) : 2 ^ msbIndex n ≤ n ∧ n < 2 ^ (msbIndex n + 1) :=
  ⟨Nat.log2_self_le hn, Nat.lt_log2_self⟩

/-- The fraction with its leading 1 shifted up to bit 23: the 24-bit significand of the result (R55). -/
theorem subnormal_significand {f p : Nat} (hp : p ≤ 9) (hle : 2 ^ p ≤ f) :
    f * 2 ^ (23 - p) = 2 ^ 23 + (f - 2 ^ p) * 2 ^ (23 - p) := by
  have hpow : 2 ^ p * 2 ^ (23 - p) = 2 ^ 23 := by rw [← pow_add, Nat.add_sub_cancel' (by omega)]
  rw [Nat.sub_mul, hpow, Nat.add_sub_cancel' (hpow ▸ Nat.mul_le_mul_right _ hle)]

/-- Below its leading 1, the significand of the result fits in the fraction field (R55). -/
theorem subnormal_fraction_lt {f p : Nat} (hp : p ≤ 9) (hle : 2 ^ p ≤ f) (hlt : f < 2 ^ (p + 1)) :
    (f - 2 ^ p) * 2 ^ (23 - p) < 2 ^ 23 := by
  have hbound : f * 2 ^ (23 - p) < 2 ^ (p + 1) * 2 ^ (23 - p) := Nat.mul_lt_mul_of_pos_right hlt (by positivity)
  have hpow : 2 ^ (p + 1) * 2 ^ (23 - p) = 2 ^ 24 := by rw [← pow_add]; congr 1; omega
  have := subnormal_significand hp hle
  omega

theorem widen_of_subnormal {h : Half} (hc : class16 h = .subnormal) :
    widen h = widenSign h ||| widenSub (frac16 h) := by simpa [hc] using widen_cases h

theorem widen_fields_of_subnormal {h : Half} (hc : class16 h = .subnormal) :
    (exp32 (widen h)).toNat = 103 + msbIndex (frac16 h).toNat ∧
    (frac32 (widen h)).toNat =
      ((frac16 h).toNat - 2 ^ msbIndex (frac16 h).toNat) * 2 ^ (23 - msbIndex (frac16 h).toNat) := by
  have hp := msbIndex_frac16_le (frac16 h)
  obtain ⟨hle, hlt⟩ := msbIndex_spec ((class16_subnormal_iff h).mp hc).2
  have hfrac := subnormal_fraction_lt hp hle hlt
  refine widen_fields_of_eq (widen_of_subnormal hc) ?_ (by omega) hfrac
  rw [widenSub_toNat, mul_comm (2 ^ (23 - _)), subnormal_significand hp hle, Nat.add_mod_left, Nat.mod_eq_of_lt hfrac]

/-! #### Infinity and zero (R52, R54) -/

/-- Settles O25: the fields of an infinity's result, and the two infinities. -/
theorem widenOfInfinity : Obligations.WidenOfInfinity := by
  refine ⟨fun h he hf => ?_, by decide, by decide⟩
  obtain ⟨-, -, -, infinity, -⟩ := class16_iff_fields h
  obtain ⟨hexp, hfrac⟩ := widen_fields_of_infinity (infinity.mpr ⟨he, hf⟩)
  exact ⟨BitVec.eq_of_toNat_eq hexp, BitVec.eq_of_toNat_eq hfrac⟩

/-- Settles O27: the result is its three fields, the last two of them zero; and the two zeros. -/
theorem widenOfZero : Obligations.WidenOfZero := by
  refine ⟨fun h he hf => ?_, by decide, by decide⟩
  obtain ⟨zero, -⟩ := class16_iff_fields h
  obtain ⟨hexp, hfrac⟩ := widen_fields_of_zero (zero.mpr ⟨he, hf⟩)
  have hE : exp32 (widen h) = 0#8 := BitVec.eq_of_toNat_eq hexp
  have hF : frac32 (widen h) = 0#23 := BitVec.eq_of_toNat_eq hfrac
  rw [← hE, ← hF, ← sign32_widen, pack32_fields]

/-! #### Class, exponent range and injectivity (R57 items 1 to 4) -/

/-- WIDEN keeps the class, but for a subnormal, which becomes a normal number. -/
def FloatClass.widened : FloatClass → FloatClass
  | .zero => .zero
  | .subnormal => .normal
  | .normal => .normal
  | .infinity => .infinity
  | .nan => .nan

theorem class32_widen (h : Half) : class32 (widen h) = (class16 h).widened := by
  cases hc : class16 h with
  | zero => exact (class32_zero_iff _).mpr (widen_fields_of_zero hc)
  | subnormal =>
    have hp := msbIndex_frac16_le (frac16 h)
    obtain ⟨hexp, -⟩ := widen_fields_of_subnormal hc
    exact (class32_normal_iff _).mpr (by omega)
  | normal =>
    have he := (exp16 h).isLt
    obtain ⟨hexp, -⟩ := widen_fields_of_normal hc
    exact (class32_normal_iff _).mpr (by omega)
  | infinity => exact (class32_infinity_iff _).mpr (widen_fields_of_infinity hc)
  | nan =>
    have hf := (class16_nan_iff h).mp hc
    obtain ⟨hexp, hfrac⟩ := widen_fields_of_nan hc
    exact (class32_nan_iff _).mpr (by omega)

theorem class32_widen_of {h : Half} {c : FloatClass} (hc : class16 h = c) : class32 (widen h) = c.widened :=
  hc ▸ class32_widen h

/-- The exponent field of a result that is neither a zero, an infinity nor a NaN. -/
theorem widen_exponent_range {h : Half} (hfin : (class16 h).isFinite = true) (hzero : class16 h ≠ .zero) :
    103 ≤ (exp32 (widen h)).toNat ∧ (exp32 (widen h)).toNat ≤ 142 := by
  cases hc : class16 h with
  | zero => exact absurd hc hzero
  | subnormal =>
    have hp := msbIndex_frac16_le (frac16 h)
    obtain ⟨hexp, -⟩ := widen_fields_of_subnormal hc
    omega
  | normal =>
    have he := (class16_normal_iff h).mp hc
    have hlt := (exp16 h).isLt
    obtain ⟨hexp, -⟩ := widen_fields_of_normal hc
    omega
  | infinity => simp [hc, FloatClass.isFinite] at hfin
  | nan => simp [hc, FloatClass.isFinite] at hfin

/-- The binary16 magnitude whose WIDEN has the given exponent and fraction: the significand shifted back down where the
operand was subnormal, and the fraction and the exponent moved back elsewhere. -/
def magnitudeBeforeWiden (E F : Nat) : Nat :=
  if E = 0 then 0
  else if E < 113 then (2 ^ 23 + F) / 2 ^ (126 - E)
  else if E = 255 then 2 ^ 10 * 31 + F / 2 ^ 13
  else 2 ^ 10 * (E - 112) + F / 2 ^ 13

theorem mag16_toNat_eq_fields (h : Half) : (mag16 h).toNat = 2 ^ 10 * (exp16 h).toNat + (frac16 h).toNat := by
  rw [mag16_toNat, exp16_toNat, frac16_toNat]
  omega

theorem magnitudeBeforeWiden_widen (h : Half) :
    magnitudeBeforeWiden (exp32 (widen h)).toNat (frac32 (widen h)).toNat = (mag16 h).toNat := by
  rw [mag16_toNat_eq_fields]
  unfold magnitudeBeforeWiden
  cases hc : class16 h with
  | zero =>
    obtain ⟨he, hf⟩ := (class16_zero_iff h).mp hc
    obtain ⟨hexp, -⟩ := widen_fields_of_zero hc
    rw [if_pos hexp, he, hf, mul_zero]
  | subnormal =>
    obtain ⟨he, hf⟩ := (class16_subnormal_iff h).mp hc
    obtain ⟨hexp, hfrac⟩ := widen_fields_of_subnormal hc
    have hp := msbIndex_frac16_le (frac16 h)
    have hshift : 126 - (exp32 (widen h)).toNat = 23 - msbIndex (frac16 h).toNat := by omega
    rw [if_neg (by omega), if_pos (by omega), hshift, hfrac, ← subnormal_significand hp (msbIndex_spec hf).1,
      Nat.mul_div_cancel _ (by positivity), he, mul_zero, zero_add]
  | normal =>
    have he := (class16_normal_iff h).mp hc
    have hlt := (exp16 h).isLt
    obtain ⟨hexp, hfrac⟩ := widen_fields_of_normal hc
    rw [if_neg (by omega), if_neg (by omega), if_neg (by omega)]
    omega
  | infinity =>
    obtain ⟨he, hf⟩ := (class16_infinity_iff h).mp hc
    obtain ⟨hexp, hfrac⟩ := widen_fields_of_infinity hc
    rw [if_neg (by omega), if_neg (by omega), if_pos hexp, hfrac, he, hf, Nat.zero_div]
  | nan =>
    obtain ⟨he, -⟩ := (class16_nan_iff h).mp hc
    obtain ⟨hexp, hfrac⟩ := widen_fields_of_nan hc
    rw [if_neg (by omega), if_neg (by omega), if_pos hexp]
    omega

/-- The result gives back the sign and the magnitude of the operand. -/
theorem widen_injective : Function.Injective widen := by
  intro h h' heq
  have hsign : sign16 h = sign16 h' := by rw [← sign32_widen, heq, sign32_widen]
  have hmag : (mag16 h).toNat = (mag16 h').toNat := by
    rw [← magnitudeBeforeWiden_widen, heq, magnitudeBeforeWiden_widen]
  rw [← BitVec.toNat_inj, sign16_toNat, sign16_toNat] at hsign
  rw [mag16_toNat, mag16_toNat] at hmag
  rw [← BitVec.toNat_inj]
  omega

/-- Settles O30: the form of every response, the class and the exponent range by the class of the operand, and the
operand read back from the result. -/
theorem widenResultProperties : Obligations.WidenResultProperties := by
  refine ⟨fun h => ?_, widen_injective⟩
  obtain ⟨hlow, hsub⟩ := widen_form h
  exact ⟨hlow, class32_widen_of, class32_widen_of, class32_widen_of, class32_widen_of, class32_widen_of, hsub,
    widen_exponent_range⟩

/-! #### A left-aligned fraction, and NaNs (R53) -/

theorem extractLsb'_of_leftAligned {s : Single} {f : BitVec 10} (hs : (frac32 s).toNat = 2 ^ 13 * f.toNat) :
    s.extractLsb' 13 10 = f := by
  have hf := f.isLt
  rw [frac32_toNat] at hs
  rw [← BitVec.toNat_inj, BitVec.extractLsb'_toNat, Nat.shiftRight_eq_div_pow]
  omega

/-- The payload and the quiet bit of a NaN are in its fraction, which is moved as it is. -/
theorem widen_payload_and_quietBit {h : Half} (hw : (widen h).extractLsb' 13 10 = frac16 h) :
    (widen h).extractLsb' 13 9 = payload16 h ∧ (widen h).getLsbD 22 = h.getLsbD 9 := by
  constructor
  · rw [← BitVec.toNat_inj, BitVec.extractLsb'_toNat, frac16_toNat] at hw
    rw [← BitVec.toNat_inj, payload16, BitVec.extractLsb'_toNat, BitVec.extractLsb'_toNat, Nat.shiftRight_zero]
    omega
  · have hbit := congrArg (BitVec.getLsbD · 9) hw
    simpa [frac16] using hbit

/-- Settles O26: the fraction is moved unchanged, and WIDEN is injective on all patterns. -/
theorem widenOfNaN : Obligations.WidenOfNaN := by
  refine ⟨fun h he hf => ?_, fun h h' _ _ hne => widen_injective.ne hne⟩
  obtain ⟨-, -, -, -, nan⟩ := class16_iff_fields h
  have hc : class16 h = .nan := nan.mpr ⟨he, hf⟩
  have hc32 : class32 (widen h) = .nan := class32_widen_of hc
  obtain ⟨hexp, hfrac⟩ := widen_fields_of_nan hc
  have htop := extractLsb'_of_leftAligned hfrac
  obtain ⟨hpayload, hquiet⟩ := widen_payload_and_quietBit htop
  refine ⟨hc32, sign32_widen h, BitVec.eq_of_toNat_eq hexp, htop, (widen_form h).1, ?_, ?_, hpayload⟩
  · rw [isQuietNaN32, isQuietNaN16, hc32, hc, hquiet]
  · rw [isSignalingNaN32, isSignalingNaN16, hc32, hc, hquiet]

/-! #### The value (R55, R56, R57 item 5) -/

theorem val16_of_zero {h : Half} (hc : class16 h = .zero) : val16 h = .finite (h.getLsbD 15) 0 := by
  simp only [val16, hc]

theorem val16_of_infinity {h : Half} (hc : class16 h = .infinity) : val16 h = .infinity (h.getLsbD 15) := by
  simp only [val16, hc]

/-- The exponent field `103 + p` undoes the shift by `23 - p` of the significand (R32, R33). -/
theorem subnormal_value {f p : Nat} (hp : p ≤ 9) (hle : 2 ^ p ≤ f) :
    (2 : ℚ) ^ (((103 + p : Nat) : ℤ) - 127) * (1 + (((f - 2 ^ p) * 2 ^ (23 - p) : Nat) : ℚ) / 2 ^ 23) =
      2 ^ (-14 : ℤ) * ((f : ℚ) / 1024) := by
  have hsig : (f : ℚ) * 2 ^ (23 - p) = 2 ^ 23 + (((f - 2 ^ p) * 2 ^ (23 - p) : Nat) : ℚ) := by
    exact_mod_cast subnormal_significand hp hle
  have hexp : (2 : ℚ) ^ (((103 + p : Nat) : ℤ) - 127) * 2 ^ (23 - p) = 2 ^ (-1 : ℤ) := by
    rw [← zpow_natCast, ← zpow_add₀ two_ne_zero]
    congr 1
    omega
  calc (2 : ℚ) ^ (((103 + p : Nat) : ℤ) - 127) * (1 + (((f - 2 ^ p) * 2 ^ (23 - p) : Nat) : ℚ) / 2 ^ 23)
      = (2 : ℚ) ^ (((103 + p : Nat) : ℤ) - 127) * ((f : ℚ) * 2 ^ (23 - p)) / 2 ^ 23 := by rw [hsig]; ring
    _ = (2 : ℚ) ^ (-1 : ℤ) * f / 2 ^ 23 := by rw [← hexp]; ring
    _ = (2 : ℚ) ^ (-14 : ℤ) * ((f : ℚ) / 1024) := by norm_num; ring

/-- The two biases differ by 112, and the two fraction widths by 13 (R32, R33). -/
theorem normal_value (e f : Nat) :
    (2 : ℚ) ^ (((e + 112 : Nat) : ℤ) - 127) * (1 + ((2 ^ 13 * f : Nat) : ℚ) / 2 ^ 23) =
      2 ^ ((e : ℤ) - 15) * (1 + (f : ℚ) / 1024) := by
  have hexp : ((e + 112 : Nat) : ℤ) - 127 = (e : ℤ) - 15 := by omega
  have hfrac : ((2 ^ 13 * f : Nat) : ℚ) / 2 ^ 23 = (f : ℚ) / 1024 := by push_cast; ring
  rw [hexp, hfrac]

/-- WIDEN is exact on every pattern that is not a NaN. -/
theorem val32_widen {h : Half} (hnan : class16 h ≠ .nan) : val32 (widen h) = val16 h := by
  cases hc : class16 h with
  | zero => rw [val32_of_zero (class32_widen_of hc), val16_of_zero hc, widen_getLsbD_31]
  | subnormal =>
    have hf := ((class16_subnormal_iff h).mp hc).2
    obtain ⟨hexp, hfrac⟩ := widen_fields_of_subnormal hc
    rw [val32_of_normal (class32_widen_of hc), val16_of_subnormal hc, widen_getLsbD_31, hexp,
      hfrac, subnormal_value (msbIndex_frac16_le _) (msbIndex_spec hf).1]
  | normal =>
    obtain ⟨hexp, hfrac⟩ := widen_fields_of_normal hc
    rw [val32_of_normal (class32_widen_of hc), val16_of_normal hc, widen_getLsbD_31, hexp,
      hfrac, normal_value]
  | infinity =>
    rw [val32_of_infinity (class32_widen_of hc), val16_of_infinity hc, widen_getLsbD_31]
  | nan => exact absurd hc hnan

/-- Settles O31: the values compared are the same ones. -/
theorem widenPreservesTheOrder : Obligations.WidenPreservesTheOrder := by
  intro a b ha hb
  rw [val32_widen ha, val32_widen hb]

/-- Settles O29: the fields of a normal number's result, and the exact value. -/
theorem widenOfNormal : Obligations.WidenOfNormal := by
  intro h h1 h30
  obtain ⟨-, -, normal, -⟩ := class16_iff_fields h
  have hc : class16 h = .normal := normal.mpr ⟨h1, h30⟩
  obtain ⟨hexp, hfrac⟩ := widen_fields_of_normal hc
  exact ⟨hexp, by omega, by omega, class32_widen_of hc, sign32_widen h,
    extractLsb'_of_leftAligned hfrac, (widen_form h).1, val32_widen (by simp [hc])⟩

/-! #### The normalisation loop of a subnormal (R55) -/

/-- Below bit 11, bit 10 alone decides whether the loop ends. -/
theorem and_0x400_eq_zero_iff {m : Nat} (hm : m < 2 ^ 11) : m &&& 0x400 = 0 ↔ m < 2 ^ 10 := by
  have hbit : m &&& 0x400 = (m.testBit 10).toNat * 2 ^ 10 := Nat.and_two_pow m 10
  rw [hbit, Nat.testBit_eq_decide_div_mod_eq]
  by_cases hlt : m < 2 ^ 10
  · have hzero : m / 2 ^ 10 % 2 = 0 := by omega
    simp only [hzero, hlt, zero_ne_one, decide_false, Bool.toNat_false, zero_mul]
  · have hone : m / 2 ^ 10 % 2 = 1 := by omega
    simp [-Nat.reducePow, hlt, hone]

/-- The loop makes the `k` turns that bring the leading 1 to bit 10, if it may make as many. -/
theorem normaliseLoop_eq {k fuel m : Nat} {ec : ℤ} (hfuel : k ≤ fuel) (hle : 2 ^ 10 ≤ m * 2 ^ k)
    (hlt : m * 2 ^ k < 2 ^ 11) : normaliseLoop fuel m ec = (m * 2 ^ k, ec - k) := by
  induction k generalizing fuel m ec with
  | zero =>
    have hset : m &&& 0x400 ≠ 0 := by
      rw [ne_eq, and_0x400_eq_zero_iff (by omega)]
      omega
    simp [normaliseLoop_done hset]
  | succ k ih =>
    obtain ⟨fuel, rfl⟩ : ∃ n, fuel = n + 1 := ⟨fuel - 1, by omega⟩
    have hdouble : m * 2 ^ (k + 1) = m <<< 1 * 2 ^ k := by rw [Nat.shiftLeft_eq]; ring
    have hm : m * 2 ≤ m * 2 ^ (k + 1) := Nat.mul_le_mul_left m (Nat.le_self_pow (by omega) 2)
    have hclear : m &&& 0x400 = 0 := (and_0x400_eq_zero_iff (by omega)).mpr (by omega)
    rw [hdouble] at hle hlt ⊢
    rw [normaliseLoop_turn hclear, ih (by omega) hle hlt]
    congr 1
    push_cast
    ring

/-- The loop on a subnormal fraction ends after `10 - p` turns with bit 10 set. -/
theorem normaliseLoop_frac16 {f : BitVec 10} (hf : f.toNat ≠ 0) :
    normaliseLoop 10 f.toNat 1 =
      (f.toNat * 2 ^ (10 - msbIndex f.toNat), (1 : ℤ) - (10 - msbIndex f.toNat : ℕ)) := by
  have hp := msbIndex_frac16_le f
  obtain ⟨hle, hlt⟩ := msbIndex_spec hf
  have hpow (k : Nat) (hk : k ≤ 1) : 2 ^ (msbIndex f.toNat + k) * 2 ^ (10 - msbIndex f.toNat) = 2 ^ (10 + k) := by
    rw [← pow_add]
    congr 1
    omega
  refine normaliseLoop_eq (by omega) ?_ ?_
  · exact (hpow 0 (by decide)).symm.trans_le (Nat.mul_le_mul_right _ hle)
  · exact (Nat.mul_lt_mul_of_pos_right hlt (by positivity)).trans_eq (hpow 1 le_rfl)

/-- Loop form and closed form are the same number. -/
theorem widenSubLoop_eq_widenSub {f : BitVec 10} (hf : f.toNat ≠ 0) : widenSubLoop f = widenSub f := by
  have hp := msbIndex_frac16_le f
  have hexp : ((1 : ℤ) - (10 - msbIndex f.toNat : ℕ) + 0x70).toNat = 103 + msbIndex f.toNat := by omega
  have hshift : 2 ^ (23 - msbIndex f.toNat) * f.toNat = f.toNat * 2 ^ (10 - msbIndex f.toNat) * 2 ^ 13 := by
    rw [mul_comm, mul_assoc, ← pow_add]
    congr 2
    omega
  have hfrac : (f.toNat * 2 ^ (10 - msbIndex f.toNat) &&& 0x3FF) <<< 13 =
      2 ^ (23 - msbIndex f.toNat) * f.toNat % 2 ^ 23 := by
    rw [Nat.and_two_pow_sub_one_eq_mod _ 10, Nat.shiftLeft_eq, hshift, ← Nat.mul_mod_mul_right]
    rfl
  have hlt : 2 ^ (23 - msbIndex f.toNat) * f.toNat % 2 ^ 23 < 2 ^ 23 := Nat.mod_lt _ (by decide)
  unfold widenSubLoop
  dsimp only
  rw [normaliseLoop_frac16 hf, ← BitVec.toNat_inj, widenSub_toNat, hexp, hfrac, BitVec.toNat_ofNat,
    Nat.shiftLeft_eq, mul_comm, ← Nat.two_pow_add_eq_or_of_lt hlt]
  omega

/-- Settles O28: the loop shifts the leading 1 to bit 10 and so agrees with the closed form, whose fields and exact
value are those of every subnormal's result. -/
theorem widenSubnormalLoopIsTheClosedForm : Obligations.WidenSubnormalLoopIsTheClosedForm := by
  intro h he hf f p
  obtain ⟨-, subnormal, -⟩ := class16_iff_fields h
  have hc : class16 h = .subnormal := subnormal.mpr ⟨he, hf⟩
  have hne : f ≠ 0 := ((class16_subnormal_iff h).mp hc).2
  have hp : p ≤ 9 := msbIndex_frac16_le (frac16 h)
  have hloop : widenSubLoop (frac16 h) = widenSub (frac16 h) := widenSubLoop_eq_widenSub hne
  obtain ⟨hle, hlt⟩ := msbIndex_spec hne
  obtain ⟨hexp, hfrac⟩ := widen_fields_of_subnormal hc
  refine ⟨hp, hle, hlt, hloop, by rw [hloop, widen_of_subnormal hc], normaliseLoop_frac16 hne, hexp, hfrac, ?low,
    val32_widen (by simp [hc])⟩
  case low =>
    have hwidth : 13 + (10 - p) = 23 - p := by omega
    rw [hfrac, hwidth, Nat.mul_mod_left]

end Sys2Proof.Machine

/-! ### NARROW by the range of its operand (spec/41_narrow.md R60 to R71) -/

namespace Sys2Proof.Machine

/-! #### The rounding test (R66) -/

theorem and_two_pow_ne_zero_iff (v i : Nat) : v &&& 2 ^ i ≠ 0 ↔ v / 2 ^ i % 2 = 1 := by
  rw [Nat.and_two_pow, ne_eq, mul_eq_zero, or_iff_left (by positivity), Bool.toNat_eq_zero, Bool.not_eq_false,
    Nat.testBit_eq_decide_div_mod_eq, decide_eq_true_iff]

/-- The round bit is set when the discarded part is at least half a unit. -/
theorem roundBit_set_iff (v k : Nat) : v &&& 2 ^ k ≠ 0 ↔ 2 ^ k ≤ v % 2 ^ (k + 1) := by
  have hlow : v % 2 ^ k < 2 ^ k := Nat.mod_lt _ (by positivity)
  rw [and_two_pow_ne_zero_iff, Nat.mod_pow_succ]
  obtain hrnd | hrnd := Nat.mod_two_eq_zero_or_one (v / 2 ^ k)
  all_goals
    rw [hrnd]
    omega

/-- The three bit tests of R66 as digits of the number: the round bit, the bits below it, and the kept value's lowest
bit. -/
theorem roundUp_succ_iff (v k : Nat) :
    roundUp v (k + 1) = true ↔ v / 2 ^ k % 2 = 1 ∧ (v % 2 ^ k ≠ 0 ∨ v / 2 ^ (k + 1) % 2 = 1) := by
  have hodd : 2 ^ k <<< 1 = 2 ^ (k + 1) := by rw [Nat.shiftLeft_eq, pow_one, pow_succ]
  simp only [roundUp, Nat.add_sub_cancel, Nat.one_shiftLeft, hodd, Nat.and_two_pow_sub_one_eq_mod, Bool.and_eq_true,
    Bool.or_eq_true, bne_iff_ne, and_two_pow_ne_zero_iff, ne_eq]

/-- ROUND_UP is round-to-nearest with ties to even. -/
theorem roundUp_iff_nearestEven {v sh : Nat} (hsh : 1 ≤ sh) :
    roundUp v sh = true ↔
      2 ^ (sh - 1) < v % 2 ^ sh ∨ (v % 2 ^ sh = 2 ^ (sh - 1) ∧ v / 2 ^ sh % 2 = 1) := by
  obtain ⟨k, rfl⟩ : ∃ k, sh = k + 1 := ⟨sh - 1, by omega⟩
  have hsplit := Nat.mod_pow_succ (x := v) (b := 2) (k := k)
  have hlow : v % 2 ^ k < 2 ^ k := Nat.mod_lt _ (by positivity)
  rw [roundUp_succ_iff, Nat.add_sub_cancel]
  obtain hrnd | hrnd := Nat.mod_two_eq_zero_or_one (v / 2 ^ k)
  all_goals
    rw [hrnd] at hsplit ⊢
    omega

/-- The mask of the one-expression form: the kept value's lowest bit and the sticky bits. -/
theorem roundMask_eq (k : Nat) : 3 * 2 ^ k - 1 = 2 ^ k <<< 1 ||| (2 ^ k - 1) := by
  have hpos : 0 < 2 ^ k := by positivity
  have hlt : 2 ^ k - 1 < 2 ^ (k + 1) := by rw [pow_succ]; omega
  have hor := Nat.two_pow_add_eq_or_of_lt hlt 1
  rw [mul_one, pow_succ] at hor
  rw [Nat.shiftLeft_eq, pow_one, ← hor]
  omega

theorem roundUp_iff_mask (v sh : Nat) :
    roundUp v sh = true ↔ v &&& 2 ^ (sh - 1) ≠ 0 ∧ v &&& (3 * 2 ^ (sh - 1) - 1) ≠ 0 := by
  rw [roundMask_eq, Nat.and_or_distrib_left, ne_eq (_ ||| _), Nat.or_eq_zero_iff]
  simp only [roundUp, Nat.one_shiftLeft, Bool.and_eq_true, Bool.or_eq_true, bne_iff_ne, ne_eq, not_and_or]
  tauto

/-- The source's literal mask contains the round bit, so that its test is the round bit alone (spec/90_conflicts.md
C1). -/
theorem literalMask_test_iff (v k : Nat) :
    v &&& 2 ^ k ≠ 0 ∧ v &&& (2 * 2 ^ k - 1) ≠ 0 ↔ 2 ^ k ≤ v % 2 ^ (k + 1) := by
  have hpos : 0 < 2 ^ k := by positivity
  rw [roundBit_set_iff, ← pow_succ', Nat.and_two_pow_sub_one_eq_mod]
  omega

/-- Settles O39: with the round bit set the discarded part is half a unit plus the sticky bits; the literal mask tests
the round bit alone, so it differs where nothing but the round bit is set and the kept value is even. -/
theorem roundUpIsNearestTiesToEven : Obligations.RoundUpIsNearestTiesToEven := by
  intro v sh hsh
  obtain ⟨k, rfl⟩ : ∃ k, sh = k + 1 := ⟨sh - 1, by omega⟩
  have hnearest := roundUp_iff_nearestEven (v := v) hsh
  rw [Nat.shiftRight_eq_div_pow]
  refine ⟨hnearest, roundUp_iff_mask v _, roundMask_eq _, ?literalMask⟩
  case literalMask =>
    rw [hnearest, Nat.add_sub_cancel, literalMask_test_iff]
    omega

/-! #### Rounding a shifted number (R66) -/

/-- A number without its `sh` lowest bits, incremented when they round up (R66 to R68). -/
def roundShift (v sh : Nat) : Nat := if roundUp v sh then v / 2 ^ sh + 1 else v / 2 ^ sh

/-- ROUND_UP reads the discarded bits and the kept value's lowest bit. -/
theorem roundUp_add_mul (a v : Nat) {sh : Nat} (hsh : 1 ≤ sh) : roundUp (2 ^ (sh + 1) * a + v) sh = roundUp v sh := by
  have hmod : (2 ^ (sh + 1) * a + v) % 2 ^ sh = v % 2 ^ sh := by rw [pow_succ, mul_assoc, Nat.mul_add_mod]
  have hdiv : (2 ^ (sh + 1) * a + v) / 2 ^ sh % 2 = v / 2 ^ sh % 2 := by
    rw [pow_succ, mul_assoc, Nat.mul_add_div (by positivity), Nat.mul_add_mod]
  rw [Bool.eq_iff_iff, roundUp_iff_nearestEven hsh, roundUp_iff_nearestEven hsh, hmod, hdiv]

theorem roundShift_add_mul (a v : Nat) {sh : Nat} (hsh : 1 ≤ sh) :
    roundShift (2 ^ (sh + 1) * a + v) sh = 2 * a + roundShift v sh := by
  have hdiv : (2 ^ (sh + 1) * a + v) / 2 ^ sh = 2 * a + v / 2 ^ sh := by
    rw [pow_succ, mul_assoc, Nat.mul_add_div (by positivity)]
  rw [roundShift, roundUp_add_mul a v hsh, hdiv, roundShift]
  split <;> omega

/-- Nothing is rounded where the discarded bits are zero. -/
theorem roundShift_mul_two_pow (v : Nat) {sh : Nat} (hsh : 1 ≤ sh) : roundShift (v * 2 ^ sh) sh = v := by
  have hdown : ¬ roundUp (v * 2 ^ sh) sh = true := by
    have hpos : 0 < 2 ^ (sh - 1) := by positivity
    rw [roundUp_iff_nearestEven hsh, Nat.mul_mod_left]
    omega
  rw [roundShift, if_neg hdown, Nat.mul_div_cancel _ (by positivity)]

/-- The rounded number is at most `k` below the middle of `k` and `k + 1`, and on the middle when `k` is even. -/
theorem roundShift_le_iff {v sh k : Nat} (hsh : 1 ≤ sh) :
    roundShift v sh ≤ k ↔ 2 * v < (2 * k + 1) * 2 ^ sh ∨ (2 * v = (2 * k + 1) * 2 ^ sh ∧ k % 2 = 0) := by
  have hround := roundUp_iff_nearestEven (v := v) hsh
  obtain ⟨j, rfl⟩ : ∃ j, sh = j + 1 := ⟨sh - 1, by omega⟩
  have hv := Nat.div_add_mod v (2 ^ (j + 1))
  have hlow : v % 2 ^ (j + 1) < 2 ^ (j + 1) := Nat.mod_lt _ (by positivity)
  have hmiddle : (2 * k + 1) * 2 ^ (j + 1) = 4 * (2 ^ j * k) + 2 * 2 ^ j := by ring
  rw [Nat.add_sub_cancel] at hround
  simp only [hmiddle, roundShift, hround]
  generalize v / 2 ^ (j + 1) = q at *
  generalize v % 2 ^ (j + 1) = r at *
  have hkept : 2 ^ (j + 1) * q = 2 * (2 ^ j * q) := by ring
  have hunit : 2 ^ (j + 1) = 2 * 2 ^ j := by ring
  obtain hq | rfl | hq := lt_trichotomy q k
  · have := Nat.mul_le_mul_left (2 ^ j) hq
    rw [Nat.mul_succ] at this
    split <;> omega
  · split <;> omega
  · have := Nat.mul_le_mul_left (2 ^ j) hq
    rw [Nat.mul_succ] at this
    split <;> omega

/-- Rounding is monotone, for numbers in units of different sizes as well. -/
theorem roundShift_le_roundShift {v w a b : Nat} (ha : 1 ≤ a) (hb : 1 ≤ b) (h : v * 2 ^ b ≤ w * 2 ^ a) :
    roundShift v a ≤ roundShift w b := by
  have hdouble : 2 * v * 2 ^ b ≤ 2 * w * 2 ^ a := by rw [mul_assoc, mul_assoc]; exact Nat.mul_le_mul_left 2 h
  have hb0 : 0 < 2 ^ b := by positivity
  obtain hw | ⟨hw, heven⟩ := (roundShift_le_iff hb).mp (le_refl (roundShift w b))
  all_goals
    rw [roundShift_le_iff ha]
    generalize roundShift w b = k at *
  · refine .inl (lt_of_mul_lt_mul_of_nonneg_right ?_ hb0.le)
    calc 2 * v * 2 ^ b ≤ 2 * w * 2 ^ a := hdouble
      _ < (2 * k + 1) * 2 ^ b * 2 ^ a := Nat.mul_lt_mul_of_pos_right hw (by positivity)
      _ = (2 * k + 1) * 2 ^ a * 2 ^ b := mul_right_comm ..
  · have hle : 2 * v ≤ (2 * k + 1) * 2 ^ a := by
      refine le_of_mul_le_mul_of_pos_right ?_ hb0
      calc 2 * v * 2 ^ b ≤ 2 * w * 2 ^ a := hdouble
        _ = (2 * k + 1) * 2 ^ a * 2 ^ b := by rw [hw, mul_right_comm]
    exact hle.lt_or_eq.imp_right fun heq => ⟨heq, heven⟩

/-! #### The result as a number: the sign above 15 bits (R60, R61) -/

/-- The magnitude of a NARROW result as a number, by exponent and fraction of the operand: the cases of R60. -/
def narrowMagnitude (E F : Nat) : Nat :=
  if E = 255 ∧ F ≠ 0 then 0x7E00 + F / 2 ^ 13 % 2 ^ 9
  else if 143 ≤ E then 0x7C00
  else if E ≤ 101 then 0
  else if E ≤ 112 then roundShift (2 ^ 23 + F) (126 - E)
  else 2 ^ 10 * (E - 112) + roundShift F 13

theorem narrowMagnitude_of_nan {E F : Nat} (hE : E = 255) (hF : F ≠ 0) :
    narrowMagnitude E F = 0x7E00 + F / 2 ^ 13 % 2 ^ 9 := if_pos ⟨hE, hF⟩

theorem narrowMagnitude_of_overflow {E F : Nat} (hE : 143 ≤ E) (hnan : E = 255 → F = 0) :
    narrowMagnitude E F = 0x7C00 := by
  rw [narrowMagnitude, if_neg fun ⟨h, hF⟩ => hF (hnan h), if_pos hE]

theorem narrowMagnitude_of_underflow {E F : Nat} (hE : E ≤ 101) : narrowMagnitude E F = 0 := by
  rw [narrowMagnitude, if_neg (by omega), if_neg (by omega), if_pos hE]

theorem narrowMagnitude_of_subnormalRange {E F : Nat} (hE : 102 ≤ E) (hE' : E ≤ 112) :
    narrowMagnitude E F = roundShift (2 ^ 23 + F) (126 - E) := by
  rw [narrowMagnitude, if_neg (by omega), if_neg (by omega), if_neg (by omega), if_pos hE']

theorem narrowMagnitude_of_normalRange {E F : Nat} (hE : 113 ≤ E) (hE' : E ≤ 142) :
    narrowMagnitude E F = 2 ^ 10 * (E - 112) + roundShift F 13 := by
  rw [narrowMagnitude, if_neg (by omega), if_neg (by omega), if_neg (by omega), if_neg (by omega)]

/-- `narrow_cases` gives the overflow case for `he >= 31` and does not say that a NaN is not in it (R93). -/
theorem narrow_of_nan {x : Single} (hc : class32 x = .nan) : narrow x = narrowSign x ||| narrowNan (frac32 x) := by
  obtain ⟨hE, hF⟩ := (class32_nan_iff x).mp hc
  have hE : (exp32 x).toNat = Config.sExpMax := hE
  have hF : frac32 x ≠ 0#23 := fun h => hF (congrArg BitVec.toNat h)
  simp only [narrow, hE, hF, and_false, if_false, if_true]

/-- The forced bit 9 takes the place of the fraction's own (R63, decision D8 of the spec). -/
theorem forcedQuietBit_or {t : Nat} (ht : t < 2 ^ 10) : 0x7E00 ||| t = 0x7E00 + t % 2 ^ 9 := by
  have hlow : t % 2 ^ 9 < 2 ^ 9 := Nat.mod_lt _ (by decide)
  have hsplit : t = 2 ^ 9 * (t / 2 ^ 9) ||| t % 2 ^ 9 := by
    rw [← Nat.two_pow_add_eq_or_of_lt hlow, Nat.div_add_mod]
  have hforced : 0x7E00 ||| 2 ^ 9 * (t / 2 ^ 9) = 2 ^ 9 * 63 := by
    obtain h | h : t / 2 ^ 9 = 0 ∨ t / 2 ^ 9 = 1 := by omega
    all_goals rw [h]; rfl
  calc 0x7E00 ||| t = 0x7E00 ||| (2 ^ 9 * (t / 2 ^ 9) ||| t % 2 ^ 9) := congrArg _ hsplit
    _ = 2 ^ 9 * 63 ||| t % 2 ^ 9 := by rw [← Nat.or_assoc, hforced]
    _ = 0x7E00 + t % 2 ^ 9 := (Nat.two_pow_add_eq_or_of_lt hlow 63).symm

theorem narrowNan_toNat (F : BitVec 23) : (narrowNan F).toNat = 0x7E00 + F.toNat / 2 ^ 13 % 2 ^ 9 := by
  have := F.isLt
  rw [narrowNan, BitVec.toNat_or, topFraction_toNat]
  exact forcedQuietBit_or (by omega)

/-- The implicit leading 1 stands above the fraction (R67). -/
theorem significand_eq_add (F : BitVec 23) : 0x800000 ||| F.toNat = 2 ^ 23 + F.toNat :=
  (Nat.two_pow_add_eq_or_of_lt F.isLt 1).symm

theorem narrowSub_eq_roundShift (he : Int) (F : BitVec 23) :
    narrowSub he F = roundShift (2 ^ 23 + F.toNat) (14 - he).toNat := by
  simp only [narrowSub, significand_eq_add, Nat.shiftRight_eq_div_pow, roundShift]

theorem narrowNorm_toNat_eq_roundShift (x : Single) {he : Int} (h1 : 1 ≤ he) (h30 : he ≤ 30) (F : BitVec 23) :
    (narrowNorm (narrowSign x) he F).toNat =
      2 ^ 15 * (sign32 x).toNat + (2 ^ 10 * he.toNat + roundShift F.toNat 13) := by
  have hs := (sign32 x).isLt
  have hF := F.isLt
  have htop := topFraction_toNat F
  have hexp : (BitVec.ofNat 16 he.toNat <<< 10).toNat = 2 ^ 10 * he.toNat := by
    have hn : (BitVec.ofNat 16 he.toNat).toNat = he.toNat := Nat.mod_eq_of_lt (by omega)
    rw [toNat_shiftLeft_of_lt (by omega), hn]
  have hupper : (narrowSign x ||| BitVec.ofNat 16 he.toNat <<< 10).toNat =
      2 ^ 10 * (2 ^ 5 * (sign32 x).toNat + he.toNat) := by
    rw [toNat_or_of_lt (narrowSign_toNat x) (by omega), hexp]
    omega
  have hbase := toNat_or_of_lt hupper (y := (F.extractLsb' 13 10).setWidth 16) (by omega)
  have hk : Config.fracShift = 13 := rfl
  simp only [narrowNorm, roundShift, hk]
  split
  · rw [BitVec.toNat_add, hbase, htop, BitVec.toNat_ofNat]
    omega
  · rw [hbase, htop]
    omega

/-- The result of every operand as one number. -/
theorem narrow_toNat (x : Single) :
    (narrow x).toNat = 2 ^ 15 * (sign32 x).toNat + narrowMagnitude (exp32 x).toNat (frac32 x).toNat := by
  have hsign := narrowSign_toNat x
  have hhe := halfExponent_eq x
  have hsgn := (sign32 x).isLt
  by_cases hnan : class32 x = .nan
  · obtain ⟨hE, hF⟩ := (class32_nan_iff x).mp hnan
    rw [narrow_of_nan hnan, toNat_or_of_lt hsign (narrowNan_range _).2, narrowNan_toNat, narrowMagnitude_of_nan hE hF]
  · have hfin : (exp32 x).toNat = 255 → (frac32 x).toNat = 0 := fun hE => by
      by_contra hF
      exact hnan ((class32_nan_iff x).mpr ⟨hE, hF⟩)
    rw [class32_nan_iff] at hnan
    obtain ⟨hover, hn⟩ | ⟨hc, -⟩ | ⟨hunder, hn⟩ | ⟨hlo, hhi, hn⟩ | ⟨hlo, hhi, hn⟩ := narrow_cases x
    · rw [class32_infinity_iff] at hover
      rw [hn, toNat_or_of_lt hsign (by decide), narrowMagnitude_of_overflow (by omega) hfin]
      rfl
    · exact absurd ((class32_nan_iff x).mp hc) hnan
    · rw [hn, hsign, narrowMagnitude_of_underflow (by omega), Nat.add_zero]
    · have hm := narrowSub_le hhi (frac32 x)
      have hshift : (14 - halfExponent x).toNat = 126 - (exp32 x).toNat := by omega
      rw [narrowMagnitude_of_subnormalRange (by omega) (by omega), ← hshift, ← narrowSub_eq_roundShift, hn,
        BitVec.toNat_add, hsign, BitVec.toNat_ofNat]
      omega
    · have hfield : (halfExponent x).toNat = (exp32 x).toNat - 112 := by omega
      rw [narrowMagnitude_of_normalRange (by omega) (by omega), hn, narrowNorm_toNat_eq_roundShift x hlo hhi, hfield]

/-! #### The fields of the result, and its sign (R61) -/

theorem narrowMagnitude_lt (x : Single) : narrowMagnitude (exp32 x).toNat (frac32 x).toNat < 2 ^ 15 := by
  obtain ⟨m, hm, hlt, -⟩ := narrow_toNat_eq_sign_add x
  rw [narrow_toNat] at hm
  omega

theorem mag16_narrow_toNat (x : Single) :
    (mag16 (narrow x)).toNat = narrowMagnitude (exp32 x).toNat (frac32 x).toNat := by
  have := narrowMagnitude_lt x
  rw [mag16_toNat, narrow_toNat]
  omega

@[simp] theorem sign16_narrow (x : Single) : sign16 (narrow x) = sign32 x := by
  have := narrowMagnitude_lt x
  rw [← BitVec.toNat_inj, sign16_toNat, narrow_toNat]
  omega

theorem narrow_getLsbD_15 (x : Single) : (narrow x).getLsbD 15 = x.getLsbD 31 := by
  rw [getLsbD_15_eq_sign16, sign16_narrow, getLsbD_31_eq_sign32]

@[simp] theorem sign16_pack16 (sgn : BitVec 1) (e : BitVec 5) (f : BitVec 10) : sign16 (pack16 sgn e f) = sgn := by
  rw [sign16, pack16, BitVec.extractLsb'_append_eq_of_le (by decide)]
  exact BitVec.extractLsb'_append_eq_left

@[simp] theorem exp16_pack16 (sgn : BitVec 1) (e : BitVec 5) (f : BitVec 10) : exp16 (pack16 sgn e f) = e := by
  rw [exp16, pack16, BitVec.extractLsb'_append_eq_of_le (by decide)]
  exact BitVec.extractLsb'_append_eq_right

@[simp] theorem frac16_pack16 (sgn : BitVec 1) (e : BitVec 5) (f : BitVec 10) : frac16 (pack16 sgn e f) = f :=
  BitVec.extractLsb'_append_eq_right

/-- A pattern is given by its sign and its magnitude. -/
theorem eq_pack16_of_mag16 {h : Half} {e : BitVec 5} {f : BitVec 10}
    (hm : (mag16 h).toNat = 2 ^ 10 * e.toNat + f.toNat) : h = pack16 (sign16 h) e f := by
  have hf := f.isLt
  have hf' := (frac16 h).isLt
  rw [mag16_toNat_eq_fields] at hm
  have hexp : exp16 h = e := BitVec.eq_of_toNat_eq (by omega)
  have hfrac : frac16 h = f := BitVec.eq_of_toNat_eq (by omega)
  rw [← hexp, ← hfrac, pack16_fields]

theorem narrow_eq_pack16 {x : Single} {e : BitVec 5} {f : BitVec 10}
    (hm : narrowMagnitude (exp32 x).toNat (frac32 x).toNat = 2 ^ 10 * e.toNat + f.toNat) :
    narrow x = pack16 (sign32 x) e f := by
  rw [← sign16_narrow]
  exact eq_pack16_of_mag16 (by rw [mag16_narrow_toNat, hm])

theorem sign32_flipSign (x : Single) : sign32 (x ^^^ 0x80000000#32) = sign32 x ^^^ 1#1 := by
  rw [sign32, BitVec.extractLsb'_xor]
  rfl

theorem exp32_flipSign (x : Single) : exp32 (x ^^^ 0x80000000#32) = exp32 x := by
  rw [exp32, BitVec.extractLsb'_xor]
  exact BitVec.xor_zero

theorem frac32_flipSign (x : Single) : frac32 (x ^^^ 0x80000000#32) = frac32 x := by
  rw [frac32, BitVec.extractLsb'_xor]
  exact BitVec.xor_zero

theorem pack16_flipSign (sgn : BitVec 1) (e : BitVec 5) (f : BitVec 10) :
    pack16 (sgn ^^^ 1#1) e f = pack16 sgn e f ^^^ 0x8000#16 := by
  have hbit : 0x8000#16 = pack16 1#1 0#5 0#10 := by decide
  rw [hbit, pack16, pack16, pack16, BitVec.xor_append, BitVec.xor_append, BitVec.xor_zero, BitVec.xor_zero]

/-- Settles O33: the result is the operand's sign above a magnitude that exponent and fraction give, and a flipped sign
leaves those. -/
theorem narrowKeepsTheSign : Obligations.NarrowKeepsTheSign := by
  intro x
  have hflip : narrow (x ^^^ 0x80000000#32) = pack16 (sign32 x ^^^ 1#1) (exp16 (narrow x)) (frac16 (narrow x)) := by
    rw [← sign32_flipSign]
    refine narrow_eq_pack16 ?_
    rw [exp32_flipSign, frac32_flipSign, ← mag16_narrow_toNat, mag16_toNat_eq_fields]
  exact ⟨narrow_getLsbD_15 x, by rw [hflip, pack16_flipSign, ← sign16_narrow, pack16_fields]⟩

/-! #### What a NARROW request does and leaves alone (R40, R60) -/

@[simp] theorem afterExec_narrow_narrowIn (x : Single) (s : State) :
    (afterExec (.narrow x) s).narrowIn = x := rfl

/-- Settles O11: the response is the result in the low half of a word, and the state after the request has the operand
on its port and the other port as it was. -/
theorem narrowRequestResultAndFrame : Obligations.NarrowRequestResultAndFrame := by
  intro x s
  refine ⟨_, exec_eq_next_afterExec (.narrow x) s, ?_⟩
  simp [widenOut_eq, narrowOut_eq, instrResponse]

/-! #### Infinity and NaNs (R62, R63) -/

theorem narrow_of_infinity {x : Single} (hc : class32 x = .infinity) : narrow x = pack16 (sign32 x) 0x1F#5 0#10 := by
  obtain ⟨hE, hF⟩ := (class32_infinity_iff x).mp hc
  exact narrow_eq_pack16 (narrowMagnitude_of_overflow (by omega) fun _ => hF)

/-- Settles O34: an infinity has the magnitude of the overflow case, and the two infinities are evaluated. -/
theorem narrowOfInfinity : Obligations.NarrowOfInfinity := by
  refine ⟨fun x hE hF => ?_, by decide, by decide⟩
  obtain ⟨-, -, -, infinity, -⟩ := class32_iff_fields x
  exact narrow_of_infinity (infinity.mpr ⟨hE, hF⟩)

/-- A NaN gives the NaN with the quiet bit and the top payload bits as its fraction. -/
theorem narrow_of_nan_eq_pack16 {x : Single} (hc : class32 x = .nan) :
    narrow x = pack16 (sign32 x) 0x1F#5 (1#1 ++ (frac32 x).extractLsb' 13 9) := by
  obtain ⟨hE, hF⟩ := (class32_nan_iff x).mp hc
  have hpayload : ((frac32 x).extractLsb' 13 9).toNat = (frac32 x).toNat / 2 ^ 13 % 2 ^ 9 := by
    rw [BitVec.extractLsb'_toNat, Nat.shiftRight_eq_div_pow]
  have hfrac : (1#1 ++ (frac32 x).extractLsb' 13 9).toNat = 2 ^ 9 * 1 + (frac32 x).toNat / 2 ^ 13 % 2 ^ 9 := by
    rw [BitVec.toNat_append, hpayload, Nat.two_pow_add_eq_or_of_lt (Nat.mod_lt _ (by decide))]
    rfl
  refine narrow_eq_pack16 ?_
  rw [narrowMagnitude_of_nan hE hF, hfrac, ← Nat.add_assoc]
  rfl

theorem isQuietNaN16_narrow {x : Single} (hc : class32 x = .nan) : isQuietNaN16 (narrow x) = true := by
  obtain ⟨hE, hF⟩ := (class32_nan_iff x).mp hc
  rw [isQuietNaN16_iff_range, mag16_narrow_toNat, narrowMagnitude_of_nan hE hF]
  omega

/-- The payload is the fraction without its top bit (R36). -/
theorem payload16_of_frac16 {h : Half} {b : BitVec 1} {p : BitVec 9} (hf : frac16 h = b ++ p) : payload16 h = p := by
  have hlow : payload16 h = (frac16 h).extractLsb' 0 9 := by
    rw [← BitVec.toNat_inj, payload16, BitVec.extractLsb'_toNat, BitVec.extractLsb'_toNat, Nat.shiftRight_zero,
      Nat.shiftRight_zero, frac16_toNat, Nat.mod_mod_of_dvd _ (Nat.pow_dvd_pow 2 (by decide))]
  rw [hlow, hf]
  exact BitVec.extractLsb'_append_eq_right

/-- Settles O35: the three fields of the result are written out, and its magnitude is that of a quiet NaN. -/
theorem narrowOfNaN : Obligations.NarrowOfNaN := by
  intro x hE hF
  obtain ⟨-, -, -, -, nan⟩ := class32_iff_fields x
  have hc : class32 x = .nan := nan.mpr ⟨hE, hF⟩
  have hn := narrow_of_nan_eq_pack16 hc
  have hexp : exp16 (narrow x) = 0x1F#5 := by rw [hn, exp16_pack16]
  have hfrac : frac16 (narrow x) = 1#1 ++ (frac32 x).extractLsb' 13 9 := by rw [hn, frac16_pack16]
  have hquiet := isQuietNaN16_narrow hc
  obtain ⟨-, hbit⟩ := (isQuietNaN16_iff _).mp hquiet
  exact ⟨hquiet, isSignalingNaN16_narrow x, hexp, hbit, payload16_of_frac16 hfrac, sign16_narrow x⟩

/-! #### The value of an operand as a multiple of `2^(-149)` (R33) -/

/-- The value of a finite binary32 magnitude pattern, in units of `2^(-149)`, the smallest subnormal. -/
def singleUnits (m : Nat) : Nat := if m / 2 ^ 23 = 0 then m % 2 ^ 23 else (2 ^ 23 + m % 2 ^ 23) * 2 ^ (m / 2 ^ 23 - 1)

/-- The next magnitude pattern is one unit of its exponent above. -/
theorem singleUnits_succ (m : Nat) : singleUnits (m + 1) = singleUnits m + 2 ^ (m / 2 ^ 23 - 1) := by
  have hlow : m % 2 ^ 23 < 2 ^ 23 := Nat.mod_lt _ (by decide)
  unfold singleUnits
  by_cases hcarry : m % 2 ^ 23 + 1 = 2 ^ 23
  · have hdiv : (m + 1) / 2 ^ 23 = m / 2 ^ 23 + 1 := by omega
    have hmod : (m + 1) % 2 ^ 23 = 0 := by omega
    rw [hdiv, hmod, if_neg (Nat.succ_ne_zero _), Nat.add_sub_cancel]
    split_ifs with hE
    · rw [hE]
      omega
    · obtain ⟨j, hj⟩ : ∃ j, m / 2 ^ 23 = j + 1 := ⟨m / 2 ^ 23 - 1, by omega⟩
      rw [hj, Nat.add_sub_cancel, ← Nat.succ_mul, Nat.succ_eq_add_one, Nat.add_assoc, hcarry, pow_succ]
      ring
  · have hdiv : (m + 1) / 2 ^ 23 = m / 2 ^ 23 := by omega
    have hmod : (m + 1) % 2 ^ 23 = m % 2 ^ 23 + 1 := by omega
    rw [hdiv, hmod]
    split_ifs with hE
    · rw [hE, Nat.zero_sub, pow_zero]
    · rw [← Nat.add_assoc, Nat.succ_mul]

theorem singleUnits_strictMono : StrictMono singleUnits :=
  strictMono_nat_of_lt_succ fun m => by
    rw [singleUnits_succ]
    exact Nat.lt_add_of_pos_right (by positivity)

theorem mag32_toNat_eq_fields (x : Single) : (mag32 x).toNat = 2 ^ 23 * (exp32 x).toNat + (frac32 x).toNat := by
  rw [mag32_toNat, exp32_toNat, frac32_toNat]
  omega

theorem exp32_eq_mag32_div (x : Single) : (exp32 x).toNat = (mag32 x).toNat / 2 ^ 23 := by
  rw [mag32_toNat, exp32_toNat]
  omega

theorem frac32_eq_mag32_mod (x : Single) : (frac32 x).toNat = (mag32 x).toNat % 2 ^ 23 := by
  rw [mag32_toNat, frac32_toNat]
  omega

theorem class32_isFinite_iff (x : Single) : (class32 x).isFinite = true ↔ (mag32 x).toNat < 0x7F800000 := by
  rw [FloatClass.isFinite_iff, class32_eq_iff_range, class32_eq_iff_range, FloatClass.range32, FloatClass.range32,
    mag32_toNat]
  omega

/-- The three formulas of R33 for a finite pattern as one. -/
theorem val32_of_isFinite {x : Single} (hfin : (class32 x).isFinite = true) :
    val32 x = .finite (x.getLsbD 31) (singleUnits (mag32 x).toNat * 2 ^ (-149 : ℤ)) := by
  rw [singleUnits, ← exp32_eq_mag32_div, ← frac32_eq_mag32_mod]
  cases hc : class32 x with
  | zero =>
    obtain ⟨hE, hF⟩ := (class32_zero_iff x).mp hc
    rw [val32_of_zero hc, if_pos hE, hF, Nat.cast_zero, zero_mul]
  | subnormal =>
    obtain ⟨hE, -⟩ := (class32_subnormal_iff x).mp hc
    rw [val32_of_subnormal hc, if_pos hE]
  | normal =>
    obtain ⟨hE, -⟩ := (class32_normal_iff x).mp hc
    obtain ⟨j, hj⟩ : ∃ j, (exp32 x).toNat = j + 1 := ⟨(exp32 x).toNat - 1, by omega⟩
    have hexp : (2 : ℚ) ^ (((j + 1 : Nat) : ℤ) - 127) = 2 ^ j * 2 ^ 23 * 2 ^ (-149 : ℤ) := by
      rw [← zpow_natCast, ← zpow_natCast, ← zpow_add₀ two_ne_zero, ← zpow_add₀ two_ne_zero]
      congr 1
      push_cast
      ring
    rw [val32_of_normal hc, if_neg hE, hj, hexp]
    congr 1
    push_cast
    ring
  | infinity => simp [hc, FloatClass.isFinite] at hfin
  | nan => simp [hc, FloatClass.isFinite] at hfin

theorem val32_of_nan {x : Single} (hc : class32 x = .nan) : val32 x = .nan := by
  simp only [val32, hc]

theorem val32_eq_finite_iff {x : Single} {n : Bool} {v : ℚ} :
    val32 x = .finite n v ↔ (class32 x).isFinite = true ∧ n = x.getLsbD 31 ∧
      v = singleUnits (mag32 x).toNat * 2 ^ (-149 : ℤ) := by
  by_cases hfin : (class32 x).isFinite = true
  · rw [val32_of_isFinite hfin, Value.finite.injEq]
    simp only [hfin, true_and, eq_comm]
  · refine iff_of_false (fun h => ?_) (fun h => hfin h.1)
    rw [FloatClass.isFinite_iff, not_not] at hfin
    obtain hc | hc := hfin
    · simp [val32_of_nan hc] at h
    · simp [val32_of_infinity hc] at h

/-- A finite operand is compared with a number that is a binary32 value by comparing magnitude patterns. -/
theorem value_le_iff {x : Single} {n : Bool} {v b : ℚ} {m : Nat} (hv : val32 x = .finite n v)
    (hb : b = singleUnits m * 2 ^ (-149 : ℤ)) :
    (v ≤ b ↔ (mag32 x).toNat ≤ m) ∧ (b ≤ v ↔ m ≤ (mag32 x).toNat) := by
  obtain ⟨-, -, rfl⟩ := val32_eq_finite_iff.mp hv
  have hunit : (0 : ℚ) < 2 ^ (-149 : ℤ) := by positivity
  rw [hb, mul_le_mul_iff_left₀ hunit, mul_le_mul_iff_left₀ hunit, Nat.cast_le, Nat.cast_le,
    singleUnits_strictMono.le_iff_le, singleUnits_strictMono.le_iff_le]
  exact ⟨Iff.rfl, Iff.rfl⟩

/-! #### The magnitudes between which the ranges of R70 and R71 lie -/

theorem units_of_65536 : (65536 : ℚ) = singleUnits 0x47800000 * 2 ^ (-149 : ℤ) := by norm_num [singleUnits]
theorem units_of_65520 : (65520 : ℚ) = singleUnits 0x477FF000 * 2 ^ (-149 : ℤ) := by norm_num [singleUnits]
theorem units_of_smallest_normal_tie : (1023.5 : ℚ) * 2 ^ (-24 : ℤ) = singleUnits 0x387FE000 * 2 ^ (-149 : ℤ) := by
  norm_num [singleUnits]
theorem units_of_smallest_subnormal_tie : (2 : ℚ) ^ (-25 : ℤ) = singleUnits 0x33000000 * 2 ^ (-149 : ℤ) := by
  norm_num [singleUnits]

/-! #### Overflow and underflow (R64, R65) -/

/-- Settles O37: `he`, the exponent field and the magnitude pattern reach their own limits together, and the fraction is
not examined. -/
theorem narrowOverflowGivesInfinity : Obligations.NarrowOverflowGivesInfinity := by
  intro x
  have hlt := (exp32 x).isLt
  have hF := (frac32 x).isLt
  have hhe := halfExponent_eq x
  have hmag := mag32_toNat_eq_fields x
  refine ⟨by omega, fun hE h31 => ⟨narrow_eq_pack16 (narrowMagnitude_of_overflow (by omega) (by omega)), ?large⟩,
    fun n v hv h65536 => ?overflow⟩
  case large =>
    have hv := val32_of_isFinite ((class32_isFinite_iff x).mpr (by omega))
    exact ⟨_, _, hv, (value_le_iff hv units_of_65536).2.mpr (by omega)⟩
  case overflow =>
    have hfin := (class32_isFinite_iff x).mp (val32_eq_finite_iff.mp hv).1
    have hle := (value_le_iff hv units_of_65536).2.mp h65536
    omega

/-- Settles O38: `he`, the exponent field and the magnitude pattern are below their own limits together, and the operand
of magnitude `2^(-25)` is evaluated. -/
theorem narrowUnderflowGivesZero : Obligations.NarrowUnderflowGivesZero := by
  refine ⟨fun x => ?_, by decide, by decide⟩
  have hF := (frac32 x).isLt
  have hhe := halfExponent_eq x
  have hmag := mag32_toNat_eq_fields x
  refine ⟨by omega, fun h => narrow_eq_pack16 (narrowMagnitude_of_underflow (by omega)), ⟨fun h => ?small, ?underflow⟩,
    fun hc => ?zero, fun hc => ?subnormal⟩
  case small =>
    have hv := val32_of_isFinite ((class32_isFinite_iff x).mpr (by omega))
    exact ⟨_, _, hv, lt_of_not_ge fun hge => by
      have := (value_le_iff hv units_of_smallest_subnormal_tie).2.mp hge
      omega⟩
  case underflow =>
    rintro ⟨n, v, hv, hlt⟩
    have := mt (value_le_iff hv units_of_smallest_subnormal_tie).2.mpr hlt.not_ge
    omega
  case zero =>
    obtain ⟨hE, -⟩ := (class32_zero_iff x).mp hc
    omega
  case subnormal =>
    obtain ⟨hE, -⟩ := (class32_subnormal_iff x).mp hc
    omega

/-! #### The two rounding ranges (R67, R68) -/

theorem roundShift_le_of_le {v sh k : Nat} (hsh : 1 ≤ sh) (h : v ≤ k * 2 ^ sh) : roundShift v sh ≤ k := by
  rw [← roundShift_mul_two_pow k hsh]
  exact roundShift_le_roundShift hsh hsh (Nat.mul_le_mul_right _ h)

theorem le_roundShift_of_le {v sh k : Nat} (hsh : 1 ≤ sh) (h : k * 2 ^ sh ≤ v) : k ≤ roundShift v sh := by
  rw [← roundShift_mul_two_pow k hsh]
  exact roundShift_le_roundShift hsh hsh (Nat.mul_le_mul_right _ h)

/-- Rounding the fraction adds at most one unit to the exponent field. -/
theorem roundShift_fraction_le {F : Nat} (hF : F < 2 ^ 23) : roundShift F 13 ≤ 2 ^ 10 :=
  roundShift_le_of_le (by decide) (by omega)

/-- Rounding the significand reaches the smallest normal number at most. -/
theorem roundShift_significand_le {F sh : Nat} (hF : F < 2 ^ 23) (hsh : 14 ≤ sh) :
    roundShift (2 ^ 23 + F) sh ≤ 2 ^ 10 := by
  refine roundShift_le_of_le (by omega) ?_
  calc 2 ^ 23 + F ≤ 2 ^ 10 * 2 ^ 14 := by omega
    _ ≤ 2 ^ 10 * 2 ^ sh := Nat.mul_le_mul_left _ (Nat.pow_le_pow_right (by decide) hsh)

/-- A shift by the whole significand keeps nothing of it, and the round bit is the leading 1 (R67). -/
theorem roundShift_significand_24 {F : Nat} (hF : F < 2 ^ 23) :
    roundShift (2 ^ 23 + F) 24 = if F = 0 then 0 else 1 := by
  have hkept : (2 ^ 23 + F) / 2 ^ 24 = 0 := by omega
  have hup : roundUp (2 ^ 23 + F) 24 = true ↔ F ≠ 0 := by
    rw [roundUp_iff_nearestEven (by decide), hkept]
    omega
  simp only [roundShift, hup, hkept, ite_not]

/-- Settles O40: the magnitude is the rounded significand, and the shift of 24 for `he = -10` leaves nothing of it to
keep. -/
theorem narrowSubnormalRange : Obligations.NarrowSubnormalRange := by
  intro x hlo hhi sig sh q r m
  have hF := (frac32 x).isLt
  have hhe := halfExponent_eq x
  have hshift : sh = 126 - (exp32 x).toNat := by omega
  have hround : roundShift sig sh = m := by
    simp only [roundShift, roundUp_iff_nearestEven (show 1 ≤ sh by omega)]
    rfl
  have hm : m ≤ 0x400 := hround ▸ roundShift_significand_le hF (by omega)
  have hq : q ≤ 0x3FF := by
    have hkept : 2 ^ 14 ≤ 2 ^ sh := Nat.pow_le_pow_right (by decide) (by omega)
    have hlt : q < 0x400 := Nat.div_lt_of_lt_mul (by omega)
    omega
  have hn : (narrow x).toNat = (sign32 x).toNat * 32768 + m := by
    rw [narrow_toNat, narrowMagnitude_of_subnormalRange (by omega) (by omega), ← hshift, hround]
    omega
  have hor : narrow x = narrowSign x ||| BitVec.ofNat 16 m := by
    have hofNat : (BitVec.ofNat 16 m).toNat = m := Nat.mod_eq_of_lt (by omega)
    rw [← BitVec.toNat_inj, toNat_or_of_lt (narrowSign_toNat x) (by omega), hofNat, hn]
    omega
  refine ⟨by omega, by omega, by omega, by omega, hq, hm, hor, hn, fun h10 => ?smallest⟩
  case smallest =>
    have hsh : sh = 24 := by omega
    have hzero : frac32 x = 0#23 ↔ (frac32 x).toNat = 0 := BitVec.toNat_inj.symm
    rw [← hround, hsh, roundShift_significand_24 hF]
    simp only [hzero]

/-- The written-out increment test of R68. -/
theorem roundUp_13_eq (F : BitVec 23) :
    roundUp F.toNat 13 = (F.getLsbD 12 && (F.extractLsb' 0 12 != 0#12 || F.getLsbD 13)) := by
  have hlow : F.extractLsb' 0 12 = 0#12 ↔ F.toNat % 2 ^ 12 = 0 := by
    rw [← BitVec.toNat_inj, BitVec.extractLsb'_toNat, Nat.shiftRight_zero, BitVec.toNat_ofNat, Nat.zero_mod]
  rw [Bool.eq_iff_iff, roundUp_succ_iff, Bool.and_eq_true, Bool.or_eq_true, bne_iff_ne, getLsbD_eq_true_iff,
    getLsbD_eq_true_iff, ne_eq, ne_eq, hlow]

/-- Settles O41: the implicit bit stands above the bits the rounding test reads, and the result is `he` above the
rounded fraction. -/
theorem narrowNormalRange : Obligations.NarrowNormalRange := by
  intro x h1 h30 F up
  have hF := F.isLt
  have hhe := halfExponent_eq x
  have hup : roundUp F.toNat 13 = up := roundUp_13_eq F
  have hsig : roundUp (0x800000 ||| F.toNat) 13 = up := by
    rw [significand_eq_add, ← hup]
    exact roundUp_add_mul (2 ^ 9) F.toNat (sh := 13) (by decide)
  refine ⟨by omega, by omega, ?mask, hup, hsig, ?number⟩
  case mask =>
    rw [← hup]
    exact roundUp_iff_mask F.toNat 13
  case number =>
    have hfield : (halfExponent x).toNat = (exp32 x).toNat - 112 := by omega
    have hn := narrow_toNat x
    rw [narrowMagnitude_of_normalRange (by omega) (by omega), roundShift, hup, ← hfield] at hn
    rw [hn]
    split <;> ring

/-! #### Carries out of the fraction (R69) -/

theorem roundShift_of_roundUp {v sh q : Nat} (hq : v / 2 ^ sh = q) (hup : roundUp v sh = true) :
    roundShift v sh = q + 1 := by
  rw [roundShift, if_pos hup, hq]

/-- No operand but a NaN gives a magnitude above infinity. -/
theorem narrowMagnitude_le {E F : Nat} (hF : F < 2 ^ 23) (hfin : 2 ^ 23 * E + F ≤ 0x7F800000) :
    narrowMagnitude E F ≤ 0x7C00 := by
  have hround := roundShift_fraction_le hF
  by_cases hover : 143 ≤ E
  · rw [narrowMagnitude_of_overflow hover (by omega)]
  by_cases hunder : E ≤ 101
  · rw [narrowMagnitude_of_underflow hunder]
    omega
  by_cases hsub : E ≤ 112
  · have := roundShift_significand_le hF (sh := 126 - E) (by omega)
    rw [narrowMagnitude_of_subnormalRange (by omega) hsub]
    omega
  · rw [narrowMagnitude_of_normalRange (by omega) (by omega)]
    omega

/-- All ten kept bits are ones and the fraction rounds up: the next exponent, with fraction zero. -/
theorem narrowMagnitude_carry {x : Single} (h1 : 1 ≤ halfExponent x) (h30 : halfExponent x ≤ 30)
    (hones : (frac32 x).extractLsb' 13 10 = 0x3FF#10) (hup : roundUp (frac32 x).toNat 13 = true) :
    narrowMagnitude (exp32 x).toNat (frac32 x).toNat = 2 ^ 10 * ((halfExponent x).toNat + 1) := by
  have hF := (frac32 x).isLt
  have hhe := halfExponent_eq x
  have htop : (frac32 x).toNat / 2 ^ 13 = 0x3FF := by
    rw [← topFraction_toNat, hones]
    rfl
  rw [narrowMagnitude_of_normalRange (by omega) (by omega), roundShift_of_roundUp htop hup]
  omega

/-- Settles O42: a carry leaves the fraction zero and one more in the exponent field, and none reaches the sign. -/
theorem carriesOutOfTheFraction : Obligations.CarriesOutOfTheFraction := by
  refine ⟨fun x h1 h29 hones hup => ?nextExponent, fun x h0 hones hup => ?smallestNormal,
    fun x h30 hones hup => ?infinity, fun x hlo hhi => ?noNaN⟩
  case nextExponent =>
    have hhe := halfExponent_eq x
    have hlt := (frac16 (narrow x)).isLt
    have hm := narrowMagnitude_carry h1 (by omega) hones hup
    rw [← mag16_narrow_toNat, mag16_toNat_eq_fields] at hm
    exact ⟨by omega, BitVec.eq_of_toNat_eq (by rw [BitVec.toNat_ofNat]; omega)⟩
  case smallestNormal =>
    have hhe := halfExponent_eq x
    have hE : (exp32 x).toNat = 112 := by omega
    rw [significand_eq_add] at hup
    rw [significand_eq_add, Nat.shiftRight_eq_div_pow] at hones
    refine narrow_eq_pack16 ?_
    rw [narrowMagnitude_of_subnormalRange (by omega) (by omega), hE, roundShift_of_roundUp hones hup]
    rfl
  case infinity =>
    refine narrow_eq_pack16 ?_
    rw [narrowMagnitude_carry (by omega) (by omega) hones hup, h30]
    rfl
  case noNaN =>
    have hhe := halfExponent_eq x
    have hF := (frac32 x).isLt
    have hle : (mag16 (narrow x)).toNat ≤ 0x7C00 := by
      rw [mag16_narrow_toNat]
      exact narrowMagnitude_le hF (by omega)
    refine ⟨BitVec.le_def.mpr hle, ?_, narrow_getLsbD_15 x⟩
    rw [ne_eq, class16_eq_iff_range, FloatClass.range16]
    omega

/-! #### Monotonicity on magnitude patterns, and the boundary operands (R71 item 4) -/

/-- Within the subnormal range, a larger exponent is a larger significand in units of the same size. -/
theorem roundShift_significand_mono {E F E' F' : Nat} (hF : F < 2 ^ 23) (hE' : E' ≤ 112)
    (h : 2 ^ 23 * E + F ≤ 2 ^ 23 * E' + F') (hF' : F' < 2 ^ 23) :
    roundShift (2 ^ 23 + F) (126 - E) ≤ roundShift (2 ^ 23 + F') (126 - E') := by
  refine roundShift_le_roundShift (by omega) (by omega) ?_
  obtain rfl | hlt : E = E' ∨ E < E' := by omega
  · exact Nat.mul_le_mul_right _ (by omega)
  · calc (2 ^ 23 + F) * 2 ^ (126 - E') ≤ 2 ^ 24 * 2 ^ (126 - E') := Nat.mul_le_mul_right _ (by omega)
      _ = 2 ^ 23 * 2 ^ (126 - E' + 1) := by ring
      _ ≤ (2 ^ 23 + F') * 2 ^ (126 - E) :=
        Nat.mul_le_mul (by omega) (Nat.pow_le_pow_right (by decide) (by omega))

/-- In the normal range, exponent and fraction are rounded as one number. -/
theorem exponent_add_roundShift (he F : Nat) : 2 ^ 10 * he + roundShift F 13 = roundShift (2 ^ 23 * he + F) 13 := by
  have hshift : 2 ^ 23 * he + F = 2 ^ (13 + 1) * (2 ^ 9 * he) + F := by omega
  rw [hshift, roundShift_add_mul _ _ (by decide)]
  omega

theorem narrowMagnitude_mono {E F E' F' : Nat} (hF : F < 2 ^ 23) (hF' : F' < 2 ^ 23)
    (h : 2 ^ 23 * E + F ≤ 2 ^ 23 * E' + F') (hfin : 2 ^ 23 * E' + F' ≤ 0x7F800000) :
    narrowMagnitude E F ≤ narrowMagnitude E' F' := by
  by_cases hover : 143 ≤ E'
  · rw [narrowMagnitude_of_overflow hover (by omega)]
    exact narrowMagnitude_le hF (by omega)
  by_cases hunder : E ≤ 101
  · rw [narrowMagnitude_of_underflow hunder]
    exact Nat.zero_le _
  by_cases hsub' : E' ≤ 112
  · rw [narrowMagnitude_of_subnormalRange (by omega) (by omega), narrowMagnitude_of_subnormalRange (by omega) hsub']
    exact roundShift_significand_mono hF hsub' h hF'
  rw [narrowMagnitude_of_normalRange (E := E') (by omega) (by omega)]
  by_cases hsub : E ≤ 112
  · have := roundShift_significand_le hF (sh := 126 - E) (by omega)
    rw [narrowMagnitude_of_subnormalRange (by omega) hsub]
    omega
  · rw [narrowMagnitude_of_normalRange (by omega) (by omega), exponent_add_roundShift, exponent_add_roundShift]
    exact roundShift_le_roundShift (by decide) (by decide) (Nat.mul_le_mul_right _ (by omega))

/-- NARROW is monotone on the magnitude patterns of the operands that are no NaNs (R85). -/
theorem mag16_narrow_mono {a b : Single} (h : (mag32 a).toNat ≤ (mag32 b).toNat)
    (hb : (mag32 b).toNat ≤ 0x7F800000) : (mag16 (narrow a)).toNat ≤ (mag16 (narrow b)).toNat := by
  rw [mag32_toNat_eq_fields, mag32_toNat_eq_fields] at h
  rw [mag32_toNat_eq_fields] at hb
  rw [mag16_narrow_toNat, mag16_narrow_toNat]
  exact narrowMagnitude_mono (frac32 a).isLt (frac32 b).isLt h hb

/-- A NaN, and no other operand, has a result above infinity. -/
theorem mag16_narrow_le_infinity_iff (x : Single) :
    (mag16 (narrow x)).toNat ≤ 0x7C00 ↔ (mag32 x).toNat ≤ 0x7F800000 := by
  have hF := (frac32 x).isLt
  have hlt := (exp32 x).isLt
  rw [mag16_narrow_toNat, mag32_toNat_eq_fields]
  refine ⟨fun h => ?_, narrowMagnitude_le hF⟩
  by_contra hnan
  rw [narrowMagnitude_of_nan (by omega) (by omega)] at h
  omega

/-- Two neighbouring operands whose results lie on both sides of a limit divide all operands. -/
theorem mag16_narrow_le_iff {k : Nat} {t u : Single} (ht : (mag16 (narrow t)).toNat ≤ k)
    (hu : k < (mag16 (narrow u)).toNat) (htu : (mag32 u).toNat = (mag32 t).toNat + 1)
    (hfin : (mag32 u).toNat ≤ 0x7F800000) (x : Single) :
    (mag16 (narrow x)).toNat ≤ k ↔ (mag32 x).toNat ≤ (mag32 t).toNat := by
  refine ⟨fun hx => ?_, fun hx => (mag16_narrow_mono hx (by omega)).trans ht⟩
  by_contra habove
  have hinf := (mag16_narrow_le_infinity_iff u).mpr hfin
  have hnum := (mag16_narrow_le_infinity_iff x).mp (by omega)
  have := mag16_narrow_mono (a := u) (b := x) (by omega) hnum
  omega

/-- The magnitudes of the operands at which the class of the result changes. -/
theorem mag16_narrow_thresholds (x : Single) :
    ((mag16 (narrow x)).toNat ≤ 0 ↔ (mag32 x).toNat ≤ 0x33000000) ∧
    ((mag16 (narrow x)).toNat ≤ 0x03FF ↔ (mag32 x).toNat ≤ 0x387FDFFF) ∧
    ((mag16 (narrow x)).toNat ≤ 0x7BFF ↔ (mag32 x).toNat ≤ 0x477FEFFF) ∧
    ((mag16 (narrow x)).toNat ≤ 0x7C00 ↔ (mag32 x).toNat ≤ 0x7F800000) := by
  refine ⟨?zero, ?subnormal, ?normal, mag16_narrow_le_infinity_iff x⟩
  case zero =>
    exact mag16_narrow_le_iff (t := 0x33000000#32) (u := 0x33000001#32) (by decide) (by decide) (by decide)
      (by decide) x
  case subnormal =>
    exact mag16_narrow_le_iff (t := 0x387FDFFF#32) (u := 0x387FE000#32) (by decide) (by decide) (by decide)
      (by decide) x
  case normal =>
    exact mag16_narrow_le_iff (t := 0x477FEFFF#32) (u := 0x477FF000#32) (by decide) (by decide) (by decide)
      (by decide) x

/-- Settles O46: NARROW is monotone on magnitude patterns and changes at the operands given, which are evaluated. -/
theorem narrowThresholds : Obligations.NarrowThresholds := by
  refine ⟨fun x => ?_, by decide, by decide, by decide, by decide, by decide⟩
  obtain ⟨zero, subnormal, normal, infinity⟩ := mag16_narrow_thresholds x
  have hzero : mag16 (narrow x) = 0x0000#16 ↔ (mag16 (narrow x)).toNat ≤ 0 := by
    rw [← BitVec.toNat_inj, BitVec.toNat_ofNat, Nat.zero_mod, Nat.le_zero]
  exact ⟨hzero.trans zero, subnormal, normal, infinity⟩

/-! #### The class of the result, and the policy table (R70, R71 items 1 and 2) -/

/-- Settles O44: a class of results is a range of operands between two thresholds, and a value is on a side of a
threshold when the magnitude pattern is. -/
theorem narrowResultClass : Obligations.NarrowResultClass := by
  intro x
  obtain ⟨zero, subnormal, normal, infinity⟩ := mag16_narrow_thresholds x
  refine ⟨?small, fun n v hc hv => ?normals, fun hc => ?infinities, isQuietNaN16_narrow⟩
  case small =>
    rw [class16_eq_iff_range, class32_eq_iff_range, class32_eq_iff_range]
    simp only [FloatClass.range16, FloatClass.range32]
    omega
  case normals =>
    have hrange := (class32_eq_iff_range x _).mp hc
    obtain ⟨hle25, -⟩ := value_le_iff hv units_of_smallest_subnormal_tie
    obtain ⟨-, hge14⟩ := value_le_iff hv units_of_smallest_normal_tie
    obtain ⟨-, hge16⟩ := value_le_iff hv units_of_65520
    simp only [class16_eq_iff_range, FloatClass.range16, FloatClass.range32, ← not_le, hle25, hge14, hge16] at hrange ⊢
    omega
  case infinities =>
    rw [class32_eq_iff_range, FloatClass.range32] at hc
    rw [class16_eq_iff_range, FloatClass.range16]
    omega

theorem narrow_eq_pack16_of_mag16 {x : Single} {e : BitVec 5} {f : BitVec 10}
    (hm : (mag16 (narrow x)).toNat = 2 ^ 10 * e.toNat + f.toNat) : narrow x = pack16 (sign32 x) e f :=
  narrow_eq_pack16 (by rw [← mag16_narrow_toNat, hm])

/-- Settles O43: the response carries the result, which the two outer thresholds decide for a finite operand. -/
theorem edgeCasePolicyOfRequests : Obligations.EdgeCasePolicyOfRequests := by
  intro x s
  obtain ⟨zero, -, normal, infinity⟩ := mag16_narrow_thresholds x
  refine ⟨_, exec_eq_next_afterExec (.narrow x) s, ?_⟩
  rw [afterExec_response, instrResponse, setWidth_extractLsb'_low]
  refine ⟨fun hc => ?zeros, fun n v hv h65520 => ?large, fun n v hv h25 => ?small, narrow_of_nan_eq_pack16,
    narrow_of_infinity⟩
  case zeros =>
    have hm : (mag32 x).toNat < 1 := ((class32_eq_iff_range x .zero).mp hc).2
    exact narrow_eq_pack16_of_mag16 (Nat.le_zero.mp (zero.mpr (by omega)))
  case large =>
    have hfin := (class32_isFinite_iff x).mp (val32_eq_finite_iff.mp hv).1
    have hm := (value_le_iff hv units_of_65520).2.mp h65520
    have hinf : (mag16 (narrow x)).toNat = 0x7C00 := by omega
    exact narrow_eq_pack16_of_mag16 hinf
  case small =>
    have hm := (value_le_iff hv units_of_smallest_subnormal_tie).1.mp h25
    exact narrow_eq_pack16_of_mag16 (Nat.le_zero.mp (zero.mpr hm))

/-! #### The image of NARROW (R71 item 2) -/

/-- The shifts of WIDEN are undone, and nothing is rounded. -/
theorem narrowMagnitude_widen {h : Half} (hs : isSignalingNaN16 h = false) :
    narrowMagnitude (exp32 (widen h)).toNat (frac32 (widen h)).toNat =
      2 ^ 10 * (exp16 h).toNat + (frac16 h).toNat := by
  cases hc : class16 h with
  | zero =>
    obtain ⟨he, hf⟩ := (class16_zero_iff h).mp hc
    obtain ⟨hexp, -⟩ := widen_fields_of_zero hc
    rw [he, hf]
    exact narrowMagnitude_of_underflow (by omega)
  | subnormal =>
    obtain ⟨he, hf⟩ := (class16_subnormal_iff h).mp hc
    obtain ⟨hexp, hfrac⟩ := widen_fields_of_subnormal hc
    have hp := msbIndex_frac16_le (frac16 h)
    have hshift : 126 - (exp32 (widen h)).toNat = 23 - msbIndex (frac16 h).toNat := by omega
    rw [narrowMagnitude_of_subnormalRange (by omega) (by omega), hshift, hfrac,
      ← subnormal_significand hp (msbIndex_spec hf).1, roundShift_mul_two_pow _ (by omega), he, mul_zero, zero_add]
  | normal =>
    have he := (class16_normal_iff h).mp hc
    have hlt := (exp16 h).isLt
    obtain ⟨hexp, hfrac⟩ := widen_fields_of_normal hc
    rw [narrowMagnitude_of_normalRange (by omega) (by omega), hfrac, mul_comm (2 ^ 13),
      roundShift_mul_two_pow _ (by decide), hexp, Nat.add_sub_cancel]
  | infinity =>
    obtain ⟨he, hf⟩ := (class16_infinity_iff h).mp hc
    obtain ⟨hexp, hfrac⟩ := widen_fields_of_infinity hc
    rw [he, hf]
    exact narrowMagnitude_of_overflow (by omega) fun _ => hfrac
  | nan =>
    obtain ⟨he, hf⟩ := (class16_nan_iff h).mp hc
    obtain ⟨hexp, hfrac⟩ := widen_fields_of_nan hc
    have hlt := (frac16 h).isLt
    have hquiet : 2 ^ 9 ≤ (frac16 h).toNat := by
      rw [← Bool.not_eq_true, isSignalingNaN16_iff_range, mag16_toNat_eq_fields] at hs
      omega
    rw [narrowMagnitude_of_nan hexp (by omega), hfrac]
    omega

/-- A pattern that is no signaling NaN is the NARROW of its own WIDEN (R81). -/
theorem narrow_widen {h : Half} (hs : isSignalingNaN16 h = false) : narrow (widen h) = h := by
  rw [narrow_eq_pack16 (narrowMagnitude_widen hs), sign32_widen, pack16_fields]

/-- Settles O45: no result is a signaling NaN, and any other pattern is the result of its own WIDEN. -/
theorem narrowIsOntoAllButSignalingNaNs : Obligations.NarrowIsOntoAllButSignalingNaNs := by
  intro h
  constructor
  · rintro ⟨x, rfl⟩
    exact isSignalingNaN16_narrow x
  · exact fun hs => ⟨widen h, narrow_widen hs⟩

end Sys2Proof.Machine

/-! ### The laws of the two operations (spec/42_laws.md) -/

namespace Sys2Proof.Machine

/-! #### WIDEN is exact (R80) -/

/-- A payload of WIDEN's format is the moved one above the thirteen low bits. -/
theorem append_eq_payload32 (s : Single) : s.extractLsb' 13 9 ++ s.extractLsb' 0 13 = payload32 s :=
  BitVec.extractLsb'_append_extractLsb'_eq_extractLsb' rfl

theorem widen_of_nan_payload_and_quietBit {h : Half} (hc : class16 h = .nan) :
    (widen h).extractLsb' 13 9 = payload16 h ∧ (widen h).getLsbD 22 = h.getLsbD 9 :=
  widen_payload_and_quietBit (extractLsb'_of_leftAligned (widen_fields_of_nan hc).2)

/-- Settles O32: the value is kept class by class, and the fraction of a NaN is moved unchanged. -/
theorem widenIsExact : Obligations.WidenIsExact := by
  refine ⟨fun h => val32_widen, fun h hc => ?_⟩
  obtain ⟨hpayload, hquiet⟩ := widen_of_nan_payload_and_quietBit hc
  obtain ⟨hlow, -⟩ := widen_form h
  exact ⟨class32_widen_of hc, widen_getLsbD_31 h, hquiet, by rw [← append_eq_payload32, hpayload, hlow]⟩

/-! #### The round trip of a binary16 pattern (R81, R82) -/

theorem append_eq_frac16 (h : Half) : h.extractLsb' 9 1 ++ payload16 h = frac16 h :=
  BitVec.extractLsb'_append_extractLsb'_eq_extractLsb' rfl

theorem frac32_payload_widen {h : Half} (hc : class16 h = .nan) :
    (frac32 (widen h)).extractLsb' 13 9 = payload16 h := by
  rw [← (widen_of_nan_payload_and_quietBit hc).1, frac32, BitVec.extractLsb'_extractLsb'_of_le (by decide)]

theorem pack16_or_quietBit (sgn : BitVec 1) (e : BitVec 5) (b : BitVec 1) (p : BitVec 9) :
    pack16 sgn e (b ++ p) ||| 0x0200#16 = pack16 sgn e (1#1 ++ p) := by
  have hbit : 0x0200#16 = pack16 0#1 0#5 (1#1 ++ 0#9) := by decide
  have hone : ∀ b : BitVec 1, b ||| 1#1 = 1#1 := by decide
  rw [hbit, pack16, pack16, pack16, BitVec.or_append, BitVec.or_append, BitVec.or_append, BitVec.or_zero,
    BitVec.or_zero, BitVec.or_zero, hone]

/-- Bit 9 set: the fraction is the payload under a one. -/
theorem or_quietBit_eq_pack16 (h : Half) :
    h ||| 0x0200#16 = pack16 (sign16 h) (exp16 h) (1#1 ++ payload16 h) := by
  rw [← pack16_or_quietBit _ _ (h.extractLsb' 9 1), append_eq_frac16, pack16_fields]

theorem narrow_widen_of_nan {h : Half} (hc : class16 h = .nan) : narrow (widen h) = h ||| 0x0200#16 := by
  have hexp : exp16 h = 0x1F#5 := BitVec.eq_of_toNat_eq ((class16_nan_iff h).mp hc).1
  rw [narrow_of_nan_eq_pack16 (class32_widen_of hc), sign32_widen, frac32_payload_widen hc, or_quietBit_eq_pack16, hexp]

/-- NARROW forces the quiet bit of a NaN, so that it does not matter how it stands in the operand. -/
theorem narrow_or_quietBit {x : Single} (hc : class32 x = .nan) : narrow (x ||| 0x00400000#32) = narrow x := by
  have hsign : sign32 (x ||| 0x00400000#32) = sign32 x := by
    rw [sign32, BitVec.extractLsb'_or]
    exact BitVec.or_zero
  have hpayload : (frac32 (x ||| 0x00400000#32)).extractLsb' 13 9 = (frac32 x).extractLsb' 13 9 := by
    rw [frac32, BitVec.extractLsb'_or, BitVec.extractLsb'_or]
    exact BitVec.or_zero
  have hnan : class32 (x ||| 0x00400000#32) = .nan := by
    obtain ⟨-, -, -, -, nan⟩ := class32_iff_fields x
    obtain ⟨-, -, -, -, nan'⟩ := class32_iff_fields (x ||| 0x00400000#32)
    obtain ⟨hE, hF⟩ := nan.mp hc
    refine nan'.mpr ⟨?_, ?_⟩
    · rw [exp32, BitVec.extractLsb'_or, ← exp32, hE]
      rfl
    · rw [frac32, BitVec.extractLsb'_or, ← frac32]
      simp [BitVec.or_eq_zero_iff, hF]
  rw [narrow_of_nan_eq_pack16 hnan, narrow_of_nan_eq_pack16 hc, hsign, hpayload]

/-- Settles O50: nothing is lost but the quiet bit of a NaN, which NARROW forces. -/
theorem roundTripOfHalf : Obligations.RoundTripOfHalf := by
  refine ⟨fun h => narrow_widen, fun h hs => ?_, fun h hc => narrow_or_quietBit (class32_widen_of hc)⟩
  exact narrow_widen_of_nan ((isSignalingNaN16_iff h).mp hs).1

/-! #### The boundary examples (R84) -/

theorem sign32_eq_zero_of_lt {x : Single} (hx : x.toNat < 2 ^ 31) : sign32 x = 0#1 :=
  BitVec.eq_of_toNat_eq (by rw [sign32_toNat, Nat.div_eq_of_lt hx, BitVec.toNat_ofNat, Nat.zero_mod])

/-- Operands between two positive ones with the same finite result have that result. -/
theorem narrow_eq_of_between {a b x : Single} {h : Half} (ha : narrow a = h) (hb : narrow b = h)
    (hab : b.toNat ≤ 0x7F800000) (hax : a ≤ x) (hxb : x ≤ b) : narrow x = h := by
  rw [BitVec.le_def] at hax hxb
  have hlow : (mag16 (narrow a)).toNat ≤ (mag16 (narrow x)).toNat :=
    mag16_narrow_mono (by rw [mag32_toNat, mag32_toNat]; omega) (by rw [mag32_toNat]; omega)
  have hhigh : (mag16 (narrow x)).toNat ≤ (mag16 (narrow b)).toNat :=
    mag16_narrow_mono (by rw [mag32_toNat, mag32_toNat]; omega) (by rw [mag32_toNat]; omega)
  have hsign : sign16 (narrow x) = sign16 (narrow b) := by
    rw [sign16_narrow, sign16_narrow, sign32_eq_zero_of_lt (by omega), sign32_eq_zero_of_lt (by omega)]
  rw [ha] at hlow
  rw [← BitVec.toNat_inj, hb, sign16_toNat, sign16_toNat] at hsign
  rw [hb, mag16_toNat, mag16_toNat] at hhigh
  rw [mag16_toNat, mag16_toNat] at hlow
  exact BitVec.eq_of_toNat_eq (by omega)

/-- Settles O52: the operands named are evaluated, and those of a range lie between two evaluated ends. -/
theorem boundaryExamples : Obligations.BoundaryExamples := by
  refine ⟨by decide, by decide, fun x hx => ?zero, by decide, by decide, fun x hlo hhi => ?smallestNormal⟩
  case zero => exact narrow_eq_of_between (a := 0#32) (by decide) (by decide) (by decide) (Nat.zero_le _) hx
  case smallestNormal => exact narrow_eq_of_between (by decide) (by decide) (by decide) hlo hhi

/-! #### The values of the binary16 magnitudes (R83) -/

/-- Within an exponent the values are the multiples of one unit, up to the first value of the next exponent. -/
theorem magnitudeValue_of_binade {b i : Nat} (hlo : b = 0 ∨ 1024 ≤ i) (hhi : i ≤ 2048) :
    magnitudeValue (1024 * b + i) = 2 ^ ((b : ℤ) - 24) * (i : ℚ) := by
  have hscale : ∀ c : Nat, (2 : ℚ) ^ (((b + c : Nat) : ℤ) - 15) = 2 ^ ((b : ℤ) - 24) * 2 ^ (c + 9) := fun c => by
    rw [← zpow_natCast, ← zpow_add₀ two_ne_zero]
    congr 1
    push_cast
    ring
  rw [magnitudeValue]
  obtain hsub | hnorm := lt_or_ge i 1024
  · obtain rfl : b = 0 := by omega
    have hmod : (1024 * 0 + i) % 1024 = i := by omega
    rw [if_pos (by omega), hmod]
    norm_num
    ring
  obtain hin | rfl := hhi.lt_or_eq
  · obtain ⟨j, rfl⟩ := Nat.exists_eq_add_of_le hnorm
    have hdiv : (1024 * b + (1024 + j)) / 1024 = b + 1 := by omega
    have hmod : (1024 * b + (1024 + j)) % 1024 = j := by omega
    rw [hdiv, hmod, if_neg (Nat.succ_ne_zero b), hscale]
    push_cast
    ring
  · have hdiv : (1024 * b + 2048) / 1024 = b + 2 := by omega
    have hmod : (1024 * b + 2048) % 1024 = 0 := by omega
    rw [hdiv, hmod, if_neg (by omega), hscale]
    norm_num

/-- The gap after a magnitude is the unit of its exponent. -/
theorem magnitudeValue_succ_sub (k : Nat) :
    magnitudeValue (k + 1) - magnitudeValue k = 2 ^ (((max (k / 1024) 1 : ℕ) : ℤ) - 25) := by
  obtain ⟨b, i, hlo, hhi, rfl, hb⟩ :
      ∃ b i, (b = 0 ∨ 1024 ≤ i) ∧ i < 2048 ∧ k = 1024 * b + i ∧ max (k / 1024) 1 = b + 1 :=
    ⟨max (k / 1024) 1 - 1, k - 1024 * (max (k / 1024) 1 - 1), by omega, by omega, by omega, by omega⟩
  have hunit : ((b + 1 : Nat) : ℤ) - 25 = (b : ℤ) - 24 := by omega
  rw [Nat.add_assoc, magnitudeValue_of_binade (by omega) (by omega), magnitudeValue_of_binade hlo (by omega), hb, hunit]
  push_cast
  ring

theorem magnitudeValue_strictMono : StrictMono magnitudeValue :=
  strictMono_nat_of_lt_succ fun k => by
    rw [← sub_pos, magnitudeValue_succ_sub]
    positivity

theorem magnitudeValue_zero : magnitudeValue 0 = 0 := by
  simpa using magnitudeValue_of_binade (b := 0) (i := 0) (.inl rfl) (Nat.zero_le _)

/-- The value by which R83 extends the list. -/
theorem magnitudeValue_infinity : magnitudeValue 0x7C00 = 65536 := by
  have h := magnitudeValue_of_binade (b := 29) (i := 2048) (.inr (by decide)) le_rfl
  norm_num at h
  exact h

theorem class16_isFinite_iff_lt (h : Half) : (class16 h).isFinite = true ↔ (mag16 h).toNat < 0x7C00 := by
  rw [FloatClass.isFinite_iff, class16_eq_iff_range, class16_eq_iff_range, FloatClass.range16, FloatClass.range16,
    mag16_toNat]
  omega

/-- The three formulas of R32 for a finite pattern as one. -/
theorem val16_of_isFinite {h : Half} (hfin : (class16 h).isFinite = true) :
    val16 h = .finite (h.getLsbD 15) (magnitudeValue (mag16 h).toNat) := by
  have hf := (frac16 h).isLt
  have hdiv : (mag16 h).toNat / 1024 = (exp16 h).toNat := by rw [mag16_toNat_eq_fields]; omega
  have hmod : (mag16 h).toNat % 1024 = (frac16 h).toNat := by rw [mag16_toNat_eq_fields]; omega
  rw [magnitudeValue, hdiv, hmod]
  cases hc : class16 h with
  | zero =>
    obtain ⟨hE, hF⟩ := (class16_zero_iff h).mp hc
    rw [val16_of_zero hc, if_pos hE, hF, Nat.cast_zero, zero_div, mul_zero]
  | subnormal => rw [val16_of_subnormal hc, if_pos ((class16_subnormal_iff h).mp hc).1]
  | normal => rw [val16_of_normal hc, if_neg ((class16_normal_iff h).mp hc).1]
  | infinity => simp [hc, FloatClass.isFinite] at hfin
  | nan => simp [hc, FloatClass.isFinite] at hfin

/-- Settles O48: a magnitude and the next one are neighbouring multiples of one unit. -/
theorem gapsOfHalfMagnitudes : Obligations.GapsOfHalfMagnitudes :=
  ⟨fun _ => val16_of_isFinite, fun k _ => ⟨magnitudeValue_strictMono k.lt_succ_self, magnitudeValue_succ_sub k⟩,
    magnitudeValue_infinity⟩

/-! #### The order of the values is that of the signed magnitude patterns (R85) -/

/-- A magnitude pattern with its sign, as a number. -/
def signedPattern (negative : Bool) (m : Nat) : ℤ := if negative then -m else m

@[simp] theorem signedPattern_false (m : Nat) : signedPattern false m = m := rfl
@[simp] theorem signedPattern_true (m : Nat) : signedPattern true m = -m := rfl

/-- The value of a pattern of either format that is no NaN: `u` gives the finite magnitudes, and `top` is the magnitude
pattern of infinity. -/
def patternValue (u : Nat → ℚ) (top : Nat) (negative : Bool) (m : Nat) : Value :=
  if m < top then .finite negative (u m) else .infinity negative

theorem signedMagnitude_le_iff {u : Nat → ℚ} (hu : StrictMono u) (h0 : u 0 = 0) (n n' : Bool) (m m' : Nat) :
    signedMagnitude n (u m) ≤ signedMagnitude n' (u m') ↔ signedPattern n m ≤ signedPattern n' m' := by
  have hnonneg : ∀ k, 0 ≤ u k := fun k => h0 ▸ hu.monotone k.zero_le
  have hzero : ∀ k, u k ≤ 0 ↔ k ≤ 0 := fun k => by rw [← hu.le_iff_le (b := 0), h0]
  have hm := hnonneg m
  have hm' := hnonneg m'
  cases n <;> cases n'
  all_goals simp only [signedMagnitude, signedPattern, if_true, if_false, Bool.false_eq_true]
  case false.false => rw [hu.le_iff_le, Nat.cast_le]
  case false.true =>
    calc u m ≤ -u m' ↔ u m ≤ 0 ∧ u m' ≤ 0 := ⟨fun h => ⟨by linarith, by linarith⟩, fun ⟨h, h'⟩ => by linarith⟩
      _ ↔ (m : ℤ) ≤ -m' := by rw [hzero, hzero]; omega
  case true.false => exact iff_of_true (by linarith) (by omega)
  case true.true => rw [neg_le_neg_iff, neg_le_neg_iff, hu.le_iff_le, Nat.cast_le]

theorem patternValue_le_iff {u : Nat → ℚ} {top m m' : Nat} (hu : StrictMono u) (h0 : u 0 = 0) (htop : 0 < top)
    (hm : m ≤ top) (hm' : m' ≤ top) (n n' : Bool) :
    (patternValue u top n m).le (patternValue u top n' m') ↔ signedPattern n m ≤ signedPattern n' m' := by
  unfold patternValue
  split_ifs with hfin hfin' hfin'
  · exact signedMagnitude_le_iff hu h0 n n' m m'
  all_goals
    cases n <;> cases n'
    all_goals
      simp only [Value.le, signedPattern_false, signedPattern_true, true_iff, false_iff]
      omega

theorem class16_ne_nan_iff (h : Half) : class16 h ≠ .nan ↔ (mag16 h).toNat ≤ 0x7C00 := by
  rw [ne_eq, class16_eq_iff_range, FloatClass.range16, mag16_toNat]
  omega

theorem class32_ne_nan_iff (x : Single) : class32 x ≠ .nan ↔ (mag32 x).toNat ≤ 0x7F800000 := by
  rw [ne_eq, class32_eq_iff_range, FloatClass.range32, mag32_toNat]
  omega

theorem val16_eq_patternValue {h : Half} (hnan : (mag16 h).toNat ≤ 0x7C00) :
    val16 h = patternValue magnitudeValue 0x7C00 (h.getLsbD 15) (mag16 h).toNat := by
  rw [patternValue]
  split_ifs with hfin
  · exact val16_of_isFinite ((class16_isFinite_iff_lt h).mpr hfin)
  · exact val16_of_infinity ((class16_eq_iff_range h .infinity).mpr ⟨not_lt.mp hfin, Nat.lt_succ_of_le hnan⟩)

/-- The value of a finite binary32 magnitude pattern (R33). -/
def singleValue (m : Nat) : ℚ := singleUnits m * 2 ^ (-149 : ℤ)

theorem singleValue_strictMono : StrictMono singleValue := fun _ _ h =>
  mul_lt_mul_of_pos_right (Nat.cast_lt.mpr (singleUnits_strictMono h)) (by positivity)

theorem singleValue_zero : singleValue 0 = 0 := by
  rw [singleValue, show singleUnits 0 = 0 from rfl, Nat.cast_zero, zero_mul]

theorem val32_eq_patternValue {x : Single} (hnan : (mag32 x).toNat ≤ 0x7F800000) :
    val32 x = patternValue singleValue 0x7F800000 (x.getLsbD 31) (mag32 x).toNat := by
  rw [patternValue]
  split_ifs with hfin
  · exact val32_of_isFinite ((class32_isFinite_iff x).mpr hfin)
  · exact val32_of_infinity ((class32_eq_iff_range x .infinity).mpr ⟨not_lt.mp hfin, Nat.lt_succ_of_le hnan⟩)

/-- NARROW is monotone in each sign by its monotonicity on magnitudes, and keeps the sign and the zeros between. -/
theorem signedPattern_narrow_mono {a b : Single} (ha : (mag32 a).toNat ≤ 0x7F800000)
    (hb : (mag32 b).toNat ≤ 0x7F800000)
    (h : signedPattern (a.getLsbD 31) (mag32 a).toNat ≤ signedPattern (b.getLsbD 31) (mag32 b).toNat) :
    signedPattern ((narrow a).getLsbD 15) (mag16 (narrow a)).toNat ≤
      signedPattern ((narrow b).getLsbD 15) (mag16 (narrow b)).toNat := by
  have hab := fun h => mag16_narrow_mono (a := a) (b := b) h hb
  have hba := fun h => mag16_narrow_mono (a := b) (b := a) h ha
  obtain ⟨hzeroA, -⟩ := mag16_narrow_thresholds a
  obtain ⟨hzeroB, -⟩ := mag16_narrow_thresholds b
  rw [narrow_getLsbD_15, narrow_getLsbD_15]
  cases ha31 : a.getLsbD 31 <;> cases hb31 : b.getLsbD 31
  all_goals
    rw [ha31, hb31] at h
    simp only [signedPattern_false, signedPattern_true] at h ⊢
    omega

/-- Settles O49: both orders of values are orders of signed patterns, on which NARROW is monotone. -/
theorem narrowIsMonotone : Obligations.NarrowIsMonotone := by
  refine ⟨fun a b ha hb h => ?values, fun a b h hb => mag16_narrow_mono h hb⟩
  case values =>
    rw [class32_ne_nan_iff] at ha hb
    have hna := (mag16_narrow_le_infinity_iff a).mpr ha
    have hnb := (mag16_narrow_le_infinity_iff b).mpr hb
    rw [val32_eq_patternValue ha, val32_eq_patternValue hb,
      patternValue_le_iff singleValue_strictMono singleValue_zero (by decide) ha hb] at h
    rw [val16_eq_patternValue hna, val16_eq_patternValue hnb,
      patternValue_le_iff magnitudeValue_strictMono magnitudeValue_zero (by decide) hna hnb]
    exact signedPattern_narrow_mono ha hb h

/-! #### A result in the unit of its exponent (R67, R68, R83) -/

/-- Rounding is the same in a unit that is a power of two smaller. -/
theorem roundShift_mul_two_pow_add {v sh : Nat} (hsh : 1 ≤ sh) (a : Nat) :
    roundShift (v * 2 ^ a) (sh + a) = roundShift v sh := by
  have heq : v * 2 ^ a * 2 ^ sh = v * 2 ^ (sh + a) := by ring
  exact le_antisymm (roundShift_le_roundShift (by omega) hsh heq.le) (roundShift_le_roundShift hsh (by omega) heq.ge)

theorem singleUnits_of_fields {x : Single} (hE : (exp32 x).toNat ≠ 0) :
    singleUnits (mag32 x).toNat = (2 ^ 23 + (frac32 x).toNat) * 2 ^ ((exp32 x).toNat - 1) := by
  rw [singleUnits, ← exp32_eq_mag32_div, ← frac32_eq_mag32_mod, if_neg hE]

theorem singleUnits_of_exponent (e : Nat) : singleUnits (2 ^ 23 * (e + 1)) = 2 ^ 23 * 2 ^ e := by
  rw [singleUnits, Nat.mul_div_cancel_left _ (by decide), Nat.mul_mod_right, if_neg (Nat.succ_ne_zero e), Nat.add_zero,
    Nat.add_sub_cancel]

/-- The exponent in whose unit the result is rounded, counted from that of the subnormals and the smallest normals. -/
def resultBinade (x : Single) : Nat := (exp32 x).toNat - 113

/-- The operand in units of `2^(-149)`, and the number of bits by which it is shifted to the unit of the result. -/
def roundedUnits (x : Single) : Nat := roundShift (singleUnits (mag32 x).toNat) (125 + resultBinade x)

/-- The three finite cases of R60 as one. -/
theorem mag16_narrow_eq_binade_add {x : Single} (hE : (exp32 x).toNat ≤ 142) :
    (mag16 (narrow x)).toNat = 1024 * resultBinade x + roundedUnits x := by
  have hF := (frac32 x).isLt
  rw [mag16_narrow_toNat, roundedUnits, resultBinade]
  by_cases hunder : (exp32 x).toNat ≤ 101
  · have hmag := mag32_toNat_eq_fields x
    have hunits : singleUnits (mag32 x).toNat < 2 ^ 23 * 2 ^ 101 := by
      rw [← singleUnits_of_exponent]
      exact singleUnits_strictMono (by omega)
    have hzero : roundShift (singleUnits (mag32 x).toNat) 125 ≤ 0 :=
      (roundShift_le_iff (by decide)).mpr (.inl (by omega))
    have hbinade : (exp32 x).toNat - 113 = 0 := by omega
    rw [narrowMagnitude_of_underflow hunder, hbinade, Nat.le_zero.mp hzero]
  by_cases hsub : (exp32 x).toNat ≤ 112
  · have hshift : 125 + ((exp32 x).toNat - 113) = 126 - (exp32 x).toNat + ((exp32 x).toNat - 1) := by omega
    rw [narrowMagnitude_of_subnormalRange (by omega) hsub, singleUnits_of_fields (by omega), hshift,
      roundShift_mul_two_pow_add (by omega)]
    omega
  · have hshift : 125 + ((exp32 x).toNat - 113) = 13 + ((exp32 x).toNat - 1) := by omega
    have hsig := roundShift_add_mul (2 ^ 9) (frac32 x).toNat (sh := 13) (by decide)
    have hlead : 2 ^ 23 + (frac32 x).toNat = 2 ^ (13 + 1) * 2 ^ 9 + (frac32 x).toNat := rfl
    rw [narrowMagnitude_of_normalRange (by omega) hE, singleUnits_of_fields (by omega), hshift,
      roundShift_mul_two_pow_add (by decide), hlead, hsig]
    omega

/-- The operand lies between the first values of its exponent and of the next one. -/
theorem singleUnits_bounds {x : Single} (hE : (exp32 x).toNat ≤ 142) :
    singleUnits (mag32 x).toNat < 2048 * 2 ^ (125 + resultBinade x) ∧
    (resultBinade x = 0 ∨ 1024 * 2 ^ (125 + resultBinade x) ≤ singleUnits (mag32 x).toNat) := by
  have hF := (frac32 x).isLt
  have hmag := mag32_toNat_eq_fields x
  have hbinade : resultBinade x = (exp32 x).toNat - 113 := rfl
  constructor
  · calc singleUnits (mag32 x).toNat < singleUnits (2 ^ 23 * (113 + resultBinade x + 1)) :=
        singleUnits_strictMono (by omega)
      _ = 2048 * 2 ^ (125 + resultBinade x) := by rw [singleUnits_of_exponent, pow_add, pow_add]; ring
  · refine or_iff_not_imp_left.mpr fun hnorm => ?_
    calc 1024 * 2 ^ (125 + resultBinade x) = singleUnits (2 ^ 23 * (112 + resultBinade x + 1)) := by
          rw [singleUnits_of_exponent, pow_add, pow_add]; ring
      _ ≤ singleUnits (mag32 x).toNat := singleUnits_strictMono.monotone (by omega)

theorem roundedUnits_bounds {x : Single} (hE : (exp32 x).toNat ≤ 142) :
    roundedUnits x ≤ 2048 ∧ (resultBinade x = 0 ∨ 1024 ≤ roundedUnits x) := by
  obtain ⟨hhi, hlo⟩ := singleUnits_bounds hE
  exact ⟨roundShift_le_of_le (by omega) hhi.le, hlo.imp_right (le_roundShift_of_le (by omega))⟩

/-- The value of the operand in the unit of the result. -/
theorem singleValue_eq_unit_mul (m b : Nat) :
    singleValue m = 2 ^ ((b : ℤ) - 24) * ((singleUnits m : ℚ) / 2 ^ (125 + b)) := by
  have hunit : (2 : ℚ) ^ ((b : ℤ) - 24) = 2 ^ (-149 : ℤ) * 2 ^ (125 + b) := by
    rw [← zpow_natCast, ← zpow_add₀ two_ne_zero]
    congr 1
    push_cast
    ring
  rw [singleValue, hunit]
  field_simp

/-! #### Nearest even by the midpoints beside the result (R83) -/

/-- `v` lies between the midpoints beside `k` in the list of magnitudes `V`, and on one of them if `k` is even. -/
def BetweenMidpoints (V : Nat → ℚ) (v : ℚ) (k : Nat) : Prop :=
  (2 * v < V k + V (k + 1) ∨ (2 * v = V k + V (k + 1) ∧ k % 2 = 0)) ∧
  ∀ j, k = j + 1 → V j + V k < 2 * v ∨ (V j + V k = 2 * v ∧ k % 2 = 0)

/-- A rounded number lies between the midpoints beside it, which are half integers. -/
theorem roundShift_betweenMidpoints {s sh : Nat} (hsh : 1 ≤ sh) :
    BetweenMidpoints Nat.cast ((s : ℚ) / 2 ^ sh) (roundShift s sh) := by
  have hpos : (0 : ℚ) < 2 ^ sh := by positivity
  have hscale : 2 * ((s : ℚ) / 2 ^ sh) = (2 * s : Nat) / 2 ^ sh := by push_cast; ring
  rw [BetweenMidpoints, hscale]
  constructor
  · have hmid : ∀ r : Nat, ((r : ℚ) + ((r + 1 : Nat) : ℚ)) = (2 * r + 1 : Nat) := fun r => by push_cast; ring
    rw [hmid, div_lt_iff₀ hpos, div_eq_iff hpos.ne']
    exact_mod_cast (roundShift_le_iff hsh).mp le_rfl
  · intro i hi
    have hbelow := mt (roundShift_le_iff (v := s) (k := i) hsh).mpr (by omega)
    have hmid : ((i : ℚ) + (roundShift s sh : ℚ)) = (2 * i + 1 : Nat) := by rw [hi]; push_cast; ring
    rw [hmid, lt_div_iff₀ hpos, eq_div_iff hpos.ne']
    norm_cast
    omega

/-- The midpoint of two numbers divides the numbers nearer to one from those nearer to the other. -/
theorem abs_sub_le_abs_sub_iff_midpoint {v a b : ℚ} (hab : a < b) :
    (|v - a| ≤ |v - b| ↔ 2 * v ≤ a + b) ∧ (|v - b| ≤ |v - a| ↔ a + b ≤ 2 * v) := by
  have hfactor : (v - b) ^ 2 - (v - a) ^ 2 = (b - a) * (a + b - 2 * v) := by ring
  have hfactor' : (v - a) ^ 2 - (v - b) ^ 2 = (b - a) * (2 * v - (a + b)) := by ring
  rw [← sq_le_sq, ← sq_le_sq, ← sub_nonneg, hfactor, ← sub_nonneg (b := (v - b) ^ 2), hfactor',
    mul_nonneg_iff_of_pos_left (sub_pos.mpr hab), mul_nonneg_iff_of_pos_left (sub_pos.mpr hab), sub_nonneg, sub_nonneg]
  exact ⟨Iff.rfl, Iff.rfl⟩

/-- Beyond its neighbours the magnitudes are still further from the result. -/
theorem isNearestEven_of_betweenMidpoints {v : ℚ} {k : Nat} (hk : k ≤ 0x7BFF)
    (h : BetweenMidpoints magnitudeValue v k) : IsNearestEven v k := by
  obtain ⟨habove, hbelow⟩ := h
  have hclosest : ∀ j, |v - magnitudeValue k| ≤ |v - magnitudeValue j| ∧
      (j ≠ k → |v - magnitudeValue j| = |v - magnitudeValue k| → k % 2 = 0) := fun j => by
    obtain hjk | rfl | hkj := lt_trichotomy j k
    · obtain ⟨i, rfl⟩ : ∃ i, k = i + 1 := ⟨k - 1, by omega⟩
      have hji := magnitudeValue_strictMono.monotone (Nat.le_of_lt_succ hjk)
      obtain ⟨hlower, hupper⟩ := abs_sub_le_abs_sub_iff_midpoint (v := v) (magnitudeValue_strictMono hjk)
      obtain hin | ⟨htie, heven⟩ := hbelow i rfl
      · exact ⟨hupper.mpr (by linarith), fun _ heq => absurd (hlower.mp heq.le) (by linarith)⟩
      · exact ⟨hupper.mpr (by linarith), fun _ _ => heven⟩
    · exact ⟨le_rfl, fun hne => absurd rfl hne⟩
    · have hkj' := magnitudeValue_strictMono.monotone (Nat.succ_le_of_lt hkj)
      obtain ⟨hlower, hupper⟩ := abs_sub_le_abs_sub_iff_midpoint (v := v) (magnitudeValue_strictMono hkj)
      obtain hin | ⟨htie, heven⟩ := habove
      · exact ⟨hlower.mpr (by linarith), fun _ heq => absurd (hupper.mp heq.le) (by linarith)⟩
      · exact ⟨hlower.mpr (by linarith), fun _ _ => heven⟩
  exact ⟨hk, fun j _ => (hclosest j).1, fun j _ => (hclosest j).2⟩

/-- In a binade of binary16 the midpoints are the half integers in its unit; at either end of it the number is on the
inner side of the result. -/
theorem betweenMidpoints_of_binade {q : ℚ} {b r : Nat} (h : BetweenMidpoints Nat.cast q r)
    (hq : q ≤ 2048) (hr : r ≤ 2048) (hq' : b = 0 ∨ 1024 ≤ q) (hr' : b = 0 ∨ 1024 ≤ r) :
    BetweenMidpoints magnitudeValue (2 ^ ((b : ℤ) - 24) * q) (1024 * b + r) := by
  obtain ⟨habove, hbelow⟩ := h
  have hunit : (0 : ℚ) < 2 ^ ((b : ℤ) - 24) := by positivity
  have hv := magnitudeValue_of_binade hr' hr
  constructor
  · obtain hin | rfl := hr.lt_or_eq
    · have hnext : magnitudeValue (1024 * b + (r + 1)) = _ := magnitudeValue_of_binade (by omega) hin
      rw [Nat.add_assoc, hv, hnext, mul_left_comm, ← mul_add, mul_lt_mul_iff_right₀ hunit, mul_right_inj' hunit.ne']
      exact habove.imp_right (And.imp_right (by omega))
    · have hnext := magnitudeValue_strictMono (1024 * b + 2048).lt_succ_self
      have hle := mul_le_mul_of_nonneg_left hq hunit.le
      rw [Nat.cast_ofNat] at hv
      exact .inl (by linarith)
  · intro j hj
    by_cases hin : b = 0 ∨ 1024 ≤ j - 1024 * b
    · obtain ⟨i, rfl⟩ : ∃ i, j = 1024 * b + i := ⟨j - 1024 * b, by omega⟩
      rw [hv, magnitudeValue_of_binade (by omega) (by omega), mul_left_comm, ← mul_add, mul_lt_mul_iff_right₀ hunit,
        mul_right_inj' hunit.ne']
      exact (hbelow i (by omega)).imp_right (And.imp_right (by omega))
    · obtain rfl : r = 1024 := by omega
      have hprev := magnitudeValue_strictMono (show j < 1024 * b + 1024 by omega)
      have hle := mul_le_mul_of_nonneg_left (hq'.resolve_left (by omega)) hunit.le
      rw [Nat.cast_ofNat] at hv
      exact .inl (by linarith)

theorem narrow_betweenMidpoints {x : Single} (hE : (exp32 x).toNat ≤ 142) :
    BetweenMidpoints magnitudeValue (singleValue (mag32 x).toNat) (mag16 (narrow x)).toNat := by
  have hpos : (0 : ℚ) < 2 ^ (125 + resultBinade x) := by positivity
  obtain ⟨hlt, hge⟩ := singleUnits_bounds hE
  obtain ⟨hr, hr'⟩ := roundedUnits_bounds hE
  rw [mag16_narrow_eq_binade_add hE, singleValue_eq_unit_mul _ (resultBinade x)]
  refine betweenMidpoints_of_binade (roundShift_betweenMidpoints (by omega)) ?_ hr ?_ hr'
  · rw [div_le_iff₀ hpos]
    exact_mod_cast hlt.le
  · rw [le_div_iff₀ hpos]
    exact_mod_cast hge

/-- Settles O47: the two upper thresholds give infinity, and a smaller result lies between the midpoints beside it. -/
theorem narrowIsRoundToNearestEven : Obligations.NarrowIsRoundToNearestEven := by
  intro x hnan
  rw [class32_ne_nan_iff] at hnan
  obtain ⟨-, -, normal, infinity⟩ := mag16_narrow_thresholds x
  have hinf : 0x477FF000 ≤ (mag32 x).toNat → mag16 (narrow x) = 0x7C00#16 := fun h =>
    BitVec.eq_of_toNat_eq (by rw [BitVec.toNat_ofNat]; omega)
  refine ⟨narrow_getLsbD_15 x, fun ⟨n, hv⟩ => hinf ?infinite, fun n v hv =>
    ⟨fun h => hinf ((value_le_iff hv units_of_65520).2.mp h), fun h => ?nearest⟩⟩
  case infinite =>
    by_contra hfin
    rw [val32_of_isFinite ((class32_isFinite_iff x).mpr (by omega))] at hv
    cases hv
  case nearest =>
    have hm := mt (value_le_iff hv units_of_65520).2.mpr h.not_ge
    obtain ⟨-, -, rfl⟩ := val32_eq_finite_iff.mp hv
    have hmag := mag32_toNat_eq_fields x
    exact isNearestEven_of_betweenMidpoints (normal.mpr (by omega)) (narrow_betweenMidpoints (by omega))

/-! #### Rounding twice, and the fixed points (R86) -/

theorem eq_of_fields32 {x y : Single} (hsign : sign32 x = sign32 y) (hexp : (exp32 x).toNat = (exp32 y).toNat)
    (hfrac : (frac32 x).toNat = (frac32 y).toNat) : x = y := by
  rw [← pack32_fields x, ← pack32_fields y, hsign, BitVec.eq_of_toNat_eq hexp, BitVec.eq_of_toNat_eq hfrac]

/-- A finite value, with its sign, is that of one pattern. -/
theorem val32_injective_of_finite {x y : Single} {n : Bool} {v : ℚ} (hx : val32 x = .finite n v)
    (hy : val32 y = .finite n v) : x = y := by
  obtain ⟨-, hxn, hxv⟩ := val32_eq_finite_iff.mp hx
  obtain ⟨-, hyn, hyv⟩ := val32_eq_finite_iff.mp hy
  have hmag : (mag32 x).toNat = (mag32 y).toNat := singleValue_strictMono.injective (hxv.symm.trans hyv)
  have hbit : ∀ b c : BitVec 1, b.getLsbD 0 = c.getLsbD 0 → b = c := by decide
  have hsign := hbit (sign32 x) (sign32 y) (by rw [← getLsbD_31_eq_sign32, ← getLsbD_31_eq_sign32, ← hxn, ← hyn])
  refine eq_of_fields32 hsign ?_ ?_
  · rw [exp32_eq_mag32_div, exp32_eq_mag32_div, hmag]
  · rw [frac32_eq_mag32_mod, frac32_eq_mag32_mod, hmag]

/-- Nothing is rounded where the operand is a multiple of the unit of its result, and WIDEN is exact. -/
theorem widen_narrow_of_dvd {x : Single} (hE : (exp32 x).toNat ≤ 142)
    (hdvd : 2 ^ (125 + resultBinade x) ∣ singleUnits (mag32 x).toNat) : widen (narrow x) = x := by
  obtain ⟨r, hr⟩ := hdvd
  rw [mul_comm] at hr
  have hF := (frac32 x).isLt
  have hmag := mag32_toNat_eq_fields x
  have hbinade : resultBinade x = (exp32 x).toNat - 113 := rfl
  have hround : roundedUnits x = r := by rw [roundedUnits, hr, roundShift_mul_two_pow _ (by omega)]
  have hk := mag16_narrow_eq_binade_add hE
  have hlt : r < 2048 := by
    have := (singleUnits_bounds hE).1
    rw [hr] at this
    exact lt_of_mul_lt_mul_right this (Nat.zero_le _)
  have hval : magnitudeValue (mag16 (narrow x)).toNat = singleValue (mag32 x).toNat := by
    have hlo := (roundedUnits_bounds hE).2
    have hpos : (2 : ℚ) ^ (125 + resultBinade x) ≠ 0 := by positivity
    rw [hround] at hk hlo
    rw [hk, magnitudeValue_of_binade hlo hlt.le, singleValue_eq_unit_mul _ (resultBinade x), hr, Nat.cast_mul,
      Nat.cast_pow, Nat.cast_ofNat, mul_div_cancel_right₀ _ hpos]
  have hval16 := val16_of_isFinite ((class16_isFinite_iff_lt (narrow x)).mpr (by omega))
  have hval32 := val32_of_isFinite ((class32_isFinite_iff x).mpr (by omega))
  rw [hval, narrow_getLsbD_15] at hval16
  rw [← val32_widen ((class16_ne_nan_iff _).mpr (by omega))] at hval16
  exact val32_injective_of_finite hval16 hval32

theorem widen_narrow_of_infinity {x : Single} (hc : class32 x = .infinity) : widen (narrow x) = x := by
  have hc16 : class16 (narrow x) = .infinity := by
    rw [class16_infinity_iff, narrow_of_infinity hc, exp16_pack16, frac16_pack16]
    exact ⟨rfl, rfl⟩
  obtain ⟨hE, hF⟩ := (class32_infinity_iff x).mp hc
  obtain ⟨hE', hF'⟩ := widen_fields_of_infinity hc16
  exact eq_of_fields32 (by rw [sign32_widen, sign16_narrow]) (by omega) (by omega)

/-- A quiet NaN whose payload has no bit below those NARROW keeps all its bits. -/
theorem widen_narrow_of_quietNaN {x : Single} (hc : class32 x = .nan) (hquiet : x.getLsbD 22 = true)
    (hlow : (frac32 x).toNat % 2 ^ 13 = 0) : widen (narrow x) = x := by
  have hF := (frac32 x).isLt
  have hfields := mag16_toNat_eq_fields (narrow x)
  obtain ⟨hE, hF0⟩ := (class32_nan_iff x).mp hc
  have hc16 := ((isQuietNaN16_iff _).mp (isQuietNaN16_narrow hc)).1
  have hE16 := ((class16_nan_iff _).mp hc16).1
  obtain ⟨hE', hF'⟩ := widen_fields_of_nan hc16
  rw [mag16_narrow_toNat, narrowMagnitude_of_nan hE hF0] at hfields
  rw [getLsbD_eq_true_iff] at hquiet
  rw [frac32_toNat] at hlow hfields
  refine eq_of_fields32 (by rw [sign32_widen, sign16_narrow]) (by omega) ?_
  rw [hF', frac32_toNat]
  omega

/-- The condition of R86 on the fields of a pattern. -/
def FixedPointFields (x : Single) : Prop :=
  x.extractLsb' 0 13 = 0#13 ∧
  (class32 x = .zero ∨ class32 x = .infinity ∨ (class32 x = .nan ∧ x.getLsbD 22 = true) ∨
   (113 ≤ (exp32 x).toNat ∧ (exp32 x).toNat ≤ 142) ∨
   (103 ≤ (exp32 x).toNat ∧ (exp32 x).toNat ≤ 112 ∧
    (frac32 x).toNat % 2 ^ (13 + (113 - (exp32 x).toNat)) = 0))

theorem fixedPointFields_widen {h : Half} (hs : isSignalingNaN16 h = false) : FixedPointFields (widen h) := by
  refine ⟨(widen_form h).1, ?_⟩
  cases hc : class16 h with
  | zero => exact .inl (class32_widen_of hc)
  | infinity => exact .inr (.inl (class32_widen_of hc))
  | nan =>
    have hquiet : h.getLsbD 9 = true := by simpa [isSignalingNaN16, hc] using hs
    exact .inr (.inr (.inl ⟨class32_widen_of hc, (widen_of_nan_payload_and_quietBit hc).2.trans hquiet⟩))
  | normal =>
    obtain ⟨hE, -⟩ := widen_fields_of_normal hc
    have he := (class16_normal_iff h).mp hc
    have hlt := (exp16 h).isLt
    exact .inr (.inr (.inr (.inl (by omega))))
  | subnormal =>
    obtain ⟨hE, hF⟩ := widen_fields_of_subnormal hc
    have hp := msbIndex_frac16_le (frac16 h)
    have hshift : 13 + (113 - (exp32 (widen h)).toNat) = 23 - msbIndex (frac16 h).toNat := by omega
    exact .inr (.inr (.inr (.inr ⟨by omega, by omega, by rw [hshift, hF, Nat.mul_mod_left]⟩)))

/-- The unit of the result divides the operand when enough low bits of the fraction are zero. -/
theorem widen_narrow_of_dvd_frac {x : Single} (hE : 103 ≤ (exp32 x).toNat) (hE' : (exp32 x).toNat ≤ 142) {sh : Nat}
    (hsh : sh = 13 + (113 - (exp32 x).toNat)) (hdvd : 2 ^ sh ∣ (frac32 x).toNat) : widen (narrow x) = x := by
  have hshift : 125 + resultBinade x = sh + ((exp32 x).toNat - 1) := by
    rw [resultBinade]
    omega
  refine widen_narrow_of_dvd hE' ?_
  rw [hshift, singleUnits_of_fields (by omega), pow_add]
  exact Nat.mul_dvd_mul_right (Nat.dvd_add (Nat.pow_dvd_pow 2 (by omega)) hdvd) _

theorem widen_narrow_of_fixedPointFields {x : Single} (hx : FixedPointFields x) : widen (narrow x) = x := by
  obtain ⟨hlow, hclass⟩ := hx
  have hlow : (frac32 x).toNat % 2 ^ 13 = 0 := by
    have hn := congrArg BitVec.toNat hlow
    rw [BitVec.extractLsb'_toNat, Nat.shiftRight_zero, BitVec.toNat_ofNat] at hn
    rw [frac32_toNat]
    omega
  obtain hc | hc | ⟨hc, hquiet⟩ | ⟨hE, hE'⟩ | ⟨hE, hE', hF⟩ := hclass
  · obtain ⟨hE, hF⟩ := (class32_zero_iff x).mp hc
    have hzero : (mag32 x).toNat = 0 := by rw [mag32_toNat_eq_fields, hE, hF, mul_zero]
    exact widen_narrow_of_dvd (by omega) (by rw [hzero]; exact dvd_zero _)
  · exact widen_narrow_of_infinity hc
  · exact widen_narrow_of_quietNaN hc hquiet hlow
  · exact widen_narrow_of_dvd_frac (by omega) hE' (sh := 13) (by omega) (Nat.dvd_of_mod_eq_zero hlow)
  · exact widen_narrow_of_dvd_frac hE (by omega) rfl (Nat.dvd_of_mod_eq_zero hF)

/-- The fixed points are the WIDENs of the patterns that are no signaling NaNs. -/
theorem widen_narrow_eq_self_iff (x : Single) :
    widen (narrow x) = x ↔ ∃ h : Half, isSignalingNaN16 h = false ∧ widen h = x := by
  constructor
  · exact fun hx => ⟨narrow x, isSignalingNaN16_narrow x, hx⟩
  · rintro ⟨h, hs, rfl⟩
    rw [narrow_widen hs]

theorem widen_narrow_eq_self_iff_fields (x : Single) : widen (narrow x) = x ↔ FixedPointFields x := by
  refine ⟨fun hx => ?_, widen_narrow_of_fixedPointFields⟩
  rw [← hx]
  exact fixedPointFields_widen (isSignalingNaN16_narrow x)

/-- Settles O51: a result is no signaling NaN, so that it comes back from its own WIDEN. -/
theorem roundingIsIdempotent : Obligations.RoundingIsIdempotent := by
  intro x
  have hround : narrow (widen (narrow x)) = narrow x := narrow_widen (isSignalingNaN16_narrow x)
  exact ⟨hround, congrArg widen hround, widen_narrow_eq_self_iff x, widen_narrow_eq_self_iff_fields x⟩

end Sys2Proof.Machine

/-! ### Exceptions, and the conditions that show in the response (spec/60_exceptions.md) -/

namespace Sys2Proof.Machine

/-! #### No exception is raised (R90) -/

/-- Settles O9: the type of faults has no constructor, and every step answers the state after the evaluation. -/
theorem noExceptionIsRaised : Obligations.NoExceptionIsRaised :=
  ⟨⟨nofun⟩, fun s => ⟨afterStep s, step_eq_next_afterStep s⟩⟩

/-! #### The all-ones exponent before overflow (R93) -/

theorem class16_narrow_of_nan {x : Single} (hc : class32 x = .nan) : class16 (narrow x) = .nan :=
  ((isQuietNaN16_iff _).mp (isQuietNaN16_narrow hc)).1

theorem class16_narrow_of_infinity {x : Single} (hc : class32 x = .infinity) : class16 (narrow x) = .infinity := by
  rw [class16_infinity_iff, narrow_of_infinity hc, exp16_pack16, frac16_pack16]
  exact ⟨rfl, rfl⟩

/-- Settles O36: an all-ones exponent has the `he` of an overflow, and the fraction still decides between the two
classes. -/
theorem allOnesExponentTakesPrecedence : Obligations.AllOnesExponentTakesPrecedence := by
  intro x hE
  obtain ⟨-, -, -, infinity, nan⟩ := class32_iff_fields x
  have h143 : halfExponent x = 143 := by
    rw [halfExponent_eq, hE]
    rfl
  exact ⟨h143, by omega, fun hF => class16_narrow_of_nan (nan.mpr ⟨hE, hF⟩),
    fun hF => class16_narrow_of_infinity (infinity.mpr ⟨hE, hF⟩)⟩

/-! #### Overflow, inexact and underflow of NARROW (R91) -/

theorem narrowOverflows_iff (x : Single) :
    narrowOverflows x = true ↔ (class32 x).isFinite = true ∧ class16 (narrow x) = .infinity := by
  rw [narrowOverflows, Bool.and_eq_true, beq_iff_eq]

theorem narrowInexact_iff (x : Single) :
    narrowInexact x = true ↔ (class32 x).isFinite = true ∧ widen (narrow x) ≠ x := by
  rw [narrowInexact, Bool.and_eq_true, bne_iff_ne]

theorem narrowUnderflows_iff (x : Single) :
    narrowUnderflows x = true ↔
      narrowInexact x = true ∧ (class16 (narrow x) = .zero ∨ class16 (narrow x) = .subnormal) := by
  rw [narrowUnderflows, Bool.and_eq_true, Bool.or_eq_true, beq_iff_eq, beq_iff_eq]

theorem class16_infinity_iff_mag16 (h : Half) : class16 h = .infinity ↔ (mag16 h).toNat = 0x7C00 := by
  rw [class16_eq_iff_range, FloatClass.range16]
  omega

/-- A finite operand overflows from the value halfway between the largest finite magnitude and 65536. -/
theorem narrowOverflows_iff_le {x : Single} {n : Bool} {v : ℚ} (hv : val32 x = .finite n v) :
    narrowOverflows x = true ↔ 65520 ≤ v := by
  obtain ⟨-, -, normal, infinity⟩ := mag16_narrow_thresholds x
  have hfin := (val32_eq_finite_iff.mp hv).1
  have hlt := (class32_isFinite_iff x).mp hfin
  rw [narrowOverflows_iff, and_iff_right hfin, class16_infinity_iff_mag16, (value_le_iff hv units_of_65520).2]
  omega

theorem narrowOverflows_iff_value (x : Single) :
    narrowOverflows x = true ↔ ∃ n v, val32 x = .finite n v ∧ 65520 ≤ v := by
  constructor
  · intro hover
    have hv := val32_of_isFinite ((narrowOverflows_iff x).mp hover).1
    exact ⟨_, _, hv, (narrowOverflows_iff_le hv).mp hover⟩
  · rintro ⟨n, v, hv, h65520⟩
    exact (narrowOverflows_iff_le hv).mpr h65520

theorem narrow_of_overflow {x : Single} (hover : narrowOverflows x = true) :
    narrow x = pack16 (sign32 x) 0x1F#5 0#10 :=
  narrow_eq_pack16_of_mag16 ((class16_infinity_iff_mag16 _).mp ((narrowOverflows_iff x).mp hover).2)

theorem exp16_narrow_of_underflow {x : Single} (hunder : narrowUnderflows x = true) : exp16 (narrow x) = 0#5 := by
  obtain ⟨zero, subnormal, -⟩ := class16_iff_fields (narrow x)
  obtain ⟨-, hc | hc⟩ := (narrowUnderflows_iff x).mp hunder
  · exact (zero.mp hc).1
  · exact (subnormal.mp hc).1

/-- WIDEN keeps the value of the result, and a finite value is that of one pattern: a result with the operand's value
would widen back to the operand. -/
theorem val16_narrow_ne_val32 {x : Single} (hinexact : narrowInexact x = true) : val16 (narrow x) ≠ val32 x := by
  obtain ⟨hfin, hne⟩ := (narrowInexact_iff x).mp hinexact
  have hv := val32_of_isFinite hfin
  have hnan : class16 (narrow x) ≠ .nan := by
    rw [class16_ne_nan_iff, mag16_narrow_le_infinity_iff]
    exact ((class32_isFinite_iff x).mp hfin).le
  intro heq
  exact hne (val32_injective_of_finite ((val32_widen hnan).trans (heq.trans hv)) hv)

theorem nearestEven_of_inexact {x : Single} (hinexact : narrowInexact x = true) (hover : narrowOverflows x = false) :
    ∃ n v, val32 x = .finite n v ∧ v < 65520 ∧ IsNearestEven v (mag16 (narrow x)).toNat ∧
      val16 (narrow x) ≠ val32 x := by
  have hfin := ((narrowInexact_iff x).mp hinexact).1
  have hv := val32_of_isFinite hfin
  have hlt := not_le.mp (mt (narrowOverflows_iff_le hv).mpr (Bool.eq_false_iff.mp hover))
  have hnan : class32 x ≠ .nan := fun hc => (FloatClass.isFinite_iff _).mp hfin (.inl hc)
  obtain ⟨-, -, hround⟩ := narrowIsRoundToNearestEven x hnan
  exact ⟨_, _, hv, hlt, (hround _ _ hv).2 hlt, val16_narrow_ne_val32 hinexact⟩

/-! #### A signaling NaN in either direction, and the response of a request (R91) -/

theorem quietNaN_of_narrowInvalid {x : Single} (hinvalid : narrowInvalid x = true) :
    isQuietNaN16 (narrow x) = true ∧ payload16 (narrow x) = (frac32 x).extractLsb' 13 9 := by
  obtain ⟨-, -, -, -, nan⟩ := class32_iff_fields x
  obtain ⟨hE, hF⟩ := nan.mp ((isSignalingNaN32_iff x).mp hinvalid).1
  obtain ⟨hquiet, -, -, -, hpayload, -⟩ := narrowOfNaN x hE hF
  exact ⟨hquiet, hpayload⟩

theorem signalingNaN_of_widenInvalid {h : Half} (hinvalid : widenInvalid h = true) :
    isSignalingNaN32 (widen h) = true ∧ (widen h).extractLsb' 13 9 = payload16 h := by
  obtain ⟨hc, hbit⟩ := (isSignalingNaN16_iff h).mp hinvalid
  obtain ⟨hpayload, hquiet⟩ := widen_of_nan_payload_and_quietBit hc
  exact ⟨(isSignalingNaN32_iff _).mpr ⟨class32_widen_of hc, hquiet.trans hbit⟩, hpayload⟩

/-- Settles O53: the response carries the result and the rest of the interface is as it was, so each condition is read
off the result. -/
theorem conditionsShowInTheResponseOnly : Obligations.ConditionsShowInTheResponseOnly := by
  refine ⟨fun x s => ?narrowRequest, fun g h s => ?widenRequest⟩
  case narrowRequest =>
    refine ⟨_, exec_eq_next_afterExec (.narrow x) s, afterExec_request _ s, afterExec_narrow_widenIn x s, ?_⟩
    rw [afterExec_response, instrResponse, setWidth_extractLsb'_low]
    exact ⟨narrowOverflows_iff_value x, narrow_of_overflow,
      fun hunder => ⟨exp16_narrow_of_underflow hunder, sign16_narrow x⟩, nearestEven_of_inexact,
      quietNaN_of_narrowInvalid⟩
  case widenRequest =>
    exact ⟨_, exec_eq_next_afterExec (.widen g h) s, afterExec_request _ s, afterExec_widen_narrowIn g h s,
      signalingNaN_of_widenInvalid⟩

end Sys2Proof.Machine

/-! ### Reset and the two chains of the ports (spec/70_reset_and_hazards.md) -/

namespace Sys2Proof.Machine

/-! #### The state after reset (R100) -/

/-- The reset values are those that the evaluation of the request they present leaves (log entry 3). -/
theorem afterStep_reset : afterStep State.reset = State.reset := by decide

/-- Settles O17: the reset state is the state after an evaluation, and every such state is settled; the output ports are
functions of the input ports at every state. -/
theorem resetIsSettled : Obligations.ResetIsSettled := by
  have hsettled : Settled State.reset := afterStep_reset ▸ settled_afterStep State.reset
  have hform : ResponseForm State.reset := afterStep_reset ▸ responseForm_afterStep State.reset
  exact ⟨hsettled, hform, widenOut_eq _, narrowOut_eq _⟩

/-! #### One output wired to the other input (R103) -/

@[simp] theorem chainWidenToNarrow_narrowIn (s : State) : s.chainWidenToNarrow.narrowIn = widen s.widenIn := rfl

@[simp] theorem chainNarrowToWiden_widenIn (s : State) : s.chainNarrowToWiden.widenIn = narrow s.narrowIn := rfl

/-- The stable values of the loop are the results of NARROW: a result is no signaling NaN, and any other pattern comes
back from its own WIDEN. -/
theorem narrow_widen_eq_self_iff (h : Half) : narrow (widen h) = h ↔ isSignalingNaN16 h = false := by
  constructor
  · intro hstable
    rw [← hstable]
    exact isSignalingNaN16_narrow (widen h)
  · exact narrow_widen

/-- Settles O54: a chained port shows the function of what the other output drives onto it, and the two chains on one
port show its round trip. -/
theorem chainingGivesTheComposition : Obligations.ChainingGivesTheComposition := by
  refine ⟨fun s => ?widenThenNarrow, fun s => ?narrowThenWiden, fun s => ?bothChains⟩
  case widenThenNarrow => rw [narrowOut_eq, chainWidenToNarrow_narrowIn]
  case narrowThenWiden => rw [widenOut_eq, chainNarrowToWiden_widenIn]
  case bothChains =>
    rw [chainNarrowToWiden_widenIn, chainWidenToNarrow_narrowIn]
    exact narrow_widen_eq_self_iff s.widenIn

end Sys2Proof.Machine
